-- ==== Sys2Proof/Word.lean ====
section
/-! DEFINITION. The word types of RFX-SYNTH (00_scope.md R9, R10): bytes, 32-bit integers, and the bit
patterns of binary32 and binary64 numbers. -/

namespace Sys2Proof

/-- A byte of the host register window (20_memory.md R87). -/
abbrev Byte := BitVec 8

/-- A 32-bit two's-complement integer register, `i32` (00_scope.md R9). -/
abbrev I32 := BitVec 32

/-- The bit pattern of an IEEE-754 binary32 number, `f32` (00_scope.md R9). -/
abbrev F32 := BitVec 32

/-- The bit pattern of an IEEE-754 binary64 number, `f64` (00_scope.md R9). -/
abbrev F64 := BitVec 64

end Sys2Proof
end

