-- ==== Sys2Proof/Syntax.lean ====
section
/-! DEFINITION. The instructions of RFX-SYNTH: one constructor for each row of spec/opcode_table.json. The block
has no instruction stream (10_state.md R49); its four encodings are the command word, the micro-operation ids, the
host transaction words (30_encoding.md R114, R120, R127) and the waveform selector (00_scope.md R23). -/

namespace Sys2Proof

/-- The four encodings of the opcode table. -/
inductive Format where
  /-- The 32-bit command word written to CTRL (30_encoding.md R114). -/
  | cmdw
  /-- The 8-bit micro-operation id held in `upc` (30_encoding.md R120). -/
  | uop
  /-- The 64-bit host transaction word (30_encoding.md R127). -/
  | txn
  /-- The 32-bit value of PRM.waveType (00_scope.md R23). -/
  | wavesel
  deriving DecidableEq, Repr

/-- One constructor per row of the opcode table. A command has no operand: bits [31:4] of its word are ignored
(30_encoding.md R114). -/
inductive Instr where
  /-- NOP. No operation (R141). -/
  | nop
  /-- SETUP. Start a run (R142). -/
  | setup
  /-- STEP. One outer sample (R143). -/
  | step
  /-- RUN. Run freely (R144). -/
  | run
  /-- ABORT. Stop a run (R145). -/
  | abort
  /-- CLRERR. Clear the error bits (R146). -/
  | clrerr
  /-- RESERVED_6. Reserved command code (R147). -/
  | reserved6
  /-- RESERVED_7. Reserved command code (R147). -/
  | reserved7
  /-- RESERVED_8. Reserved command code (R147). -/
  | reserved8
  /-- RESERVED_9. Reserved command code (R147). -/
  | reserved9
  /-- RESERVED_A. Reserved command code (R147). -/
  | reservedA
  /-- RESERVED_B. Reserved command code (R147). -/
  | reservedB
  /-- RESERVED_C. Reserved command code (R147). -/
  | reservedC
  /-- RESERVED_D. Reserved command code (R147). -/
  | reservedD
  /-- RESERVED_E. Reserved command code (R147). -/
  | reservedE
  /-- RESERVED_F. Reserved command code (R147). -/
  | reservedF
  /-- IDLE. No micro-operation in progress (R152). -/
  | idle
  /-- SU_RESEED. Seed the random source (R180). -/
  | suReseed
  /-- SU_CLAMP. The two invariant clamps (R181). -/
  | suClamp
  /-- SU_CLEAR. Clear the run state (R182). -/
  | suClear
  /-- SU_PERIOD. Period and maximum period (R183). -/
  | suPeriod
  /-- SU_SLIDE. Slide rate (R184). -/
  | suSlide
  /-- SU_ARP. Arpeggio factor and limit (R185). -/
  | suArp
  /-- SU_DUTY. Duty and duty slide (R186). -/
  | suDuty
  /-- SU_FILTER. Filter coefficients (R187). -/
  | suFilter
  /-- SU_VIBRATO. Vibrato speed and amplitude (R188). -/
  | suVibrato
  /-- SU_ENVLEN. Envelope stage lengths (R189). -/
  | suEnvlen
  /-- SU_PHASER. Phaser offset and sweep (R190). -/
  | suPhaser
  /-- SU_REPEAT. Repeat limit (R191). -/
  | suRepeat
  /-- SU_NOISE. Initial noise fill (R192). -/
  | suNoise
  /-- PS_REPEAT. Repeat reset (R210). -/
  | psRepeat
  /-- PS_ARP. One-shot arpeggio (R211). -/
  | psArp
  /-- PS_SLIDE. Frequency slide and floor (R212). -/
  | psSlide
  /-- PS_VIBRATO. Vibrato LFO (R213). -/
  | psVibrato
  /-- PS_PERIOD. Integer period and floor (R214). -/
  | psPeriod
  /-- PS_DUTY. Duty slide (R230). -/
  | psDuty
  /-- PS_ENV. Envelope state machine (R231). -/
  | psEnv
  /-- PS_PHASER_TAP. Phaser offset sweep and tap (R250). -/
  | psPhaserTap
  /-- PS_HP_SWEEP. High-pass coefficient sweep (R251). -/
  | psHpSweep
  /-- PS_SSCLR. Clear the sub-sample accumulator (R300). -/
  | psSsclr
  /-- SS_PHASE. Phase advance, wrap, noise refill (R260). -/
  | ssPhase
  /-- SS_WAVE. Base waveform sample (R263). -/
  | ssWave
  /-- SS_LPF. Low-pass section (R280). -/
  | ssLpf
  /-- SS_HPF. High-pass leaky integrator (R281). -/
  | ssHpf
  /-- SS_PHASER. Delay-line write and tap (R290). -/
  | ssPhaser
  /-- SS_ACC. Envelope-weighted accumulate (R303). -/
  | ssAcc
  /-- PO_OUT. Average, scale, clamp, emit, count (R301). -/
  | poOut
  /-- WR. Host write transaction (R127). -/
  | wr (off : BitVec 16) (data : BitVec 32)
  /-- RD. Host read transaction (R127). -/
  | rd (off : BitVec 16)
  /-- WAVE_SQUARE. Square case of SS_WAVE (R264). -/
  | waveSquare
  /-- WAVE_SAWTOOTH. Sawtooth case of SS_WAVE (R266). -/
  | waveSawtooth
  /-- WAVE_SINE. Sine case of SS_WAVE (R267). -/
  | waveSine
  /-- WAVE_NOISE. Noise case of SS_WAVE (R265). -/
  | waveNoise
  /-- WAVE_OTHER. A selector outside 0..3 (R24). -/
  | waveOther (sel : I32)
  deriving DecidableEq, Repr

/-- The encoding an instruction belongs to. -/
def Instr.format : Instr → Format
  | .nop => .cmdw
  | .setup => .cmdw
  | .step => .cmdw
  | .run => .cmdw
  | .abort => .cmdw
  | .clrerr => .cmdw
  | .reserved6 => .cmdw
  | .reserved7 => .cmdw
  | .reserved8 => .cmdw
  | .reserved9 => .cmdw
  | .reservedA => .cmdw
  | .reservedB => .cmdw
  | .reservedC => .cmdw
  | .reservedD => .cmdw
  | .reservedE => .cmdw
  | .reservedF => .cmdw
  | .idle => .uop
  | .suReseed => .uop
  | .suClamp => .uop
  | .suClear => .uop
  | .suPeriod => .uop
  | .suSlide => .uop
  | .suArp => .uop
  | .suDuty => .uop
  | .suFilter => .uop
  | .suVibrato => .uop
  | .suEnvlen => .uop
  | .suPhaser => .uop
  | .suRepeat => .uop
  | .suNoise => .uop
  | .psRepeat => .uop
  | .psArp => .uop
  | .psSlide => .uop
  | .psVibrato => .uop
  | .psPeriod => .uop
  | .psDuty => .uop
  | .psEnv => .uop
  | .psPhaserTap => .uop
  | .psHpSweep => .uop
  | .psSsclr => .uop
  | .ssPhase => .uop
  | .ssWave => .uop
  | .ssLpf => .uop
  | .ssHpf => .uop
  | .ssPhaser => .uop
  | .ssAcc => .uop
  | .poOut => .uop
  | .wr _ _ => .txn
  | .rd _ => .txn
  | .waveSquare => .wavesel
  | .waveSawtooth => .wavesel
  | .waveSine => .wavesel
  | .waveNoise => .wavesel
  | .waveOther _ => .wavesel

end Sys2Proof
end

