-- ==== Sys2Proof/WellFormed.lean ====
section
/-! DEFINITION. Well-formed instructions: the operands an encoding and the register window admit. -/

namespace Sys2Proof

/-- The two low bits of a window offset are 0 (20_memory.md R88: only aligned accesses are admitted). -/
def alignedOffset (off : BitVec 16) : Bool := off.extractLsb' 0 2 == 0#2

/-- A selector outside 0..3 (00_scope.md R24). -/
def otherSelector (sel : I32) : Bool := (4#32).ule sel

/-- The check of each instruction. -/
def Instr.wellFormed : Instr → Bool
  | .nop => true
  | .setup => true
  | .step => true
  | .run => true
  | .abort => true
  | .clrerr => true
  | .reserved6 => true
  | .reserved7 => true
  | .reserved8 => true
  | .reserved9 => true
  | .reservedA => true
  | .reservedB => true
  | .reservedC => true
  | .reservedD => true
  | .reservedE => true
  | .reservedF => true
  | .idle => true
  | .suReseed => true
  | .suClamp => true
  | .suClear => true
  | .suPeriod => true
  | .suSlide => true
  | .suArp => true
  | .suDuty => true
  | .suFilter => true
  | .suVibrato => true
  | .suEnvlen => true
  | .suPhaser => true
  | .suRepeat => true
  | .suNoise => true
  | .psRepeat => true
  | .psArp => true
  | .psSlide => true
  | .psVibrato => true
  | .psPeriod => true
  | .psDuty => true
  | .psEnv => true
  | .psPhaserTap => true
  | .psHpSweep => true
  | .psSsclr => true
  | .ssPhase => true
  | .ssWave => true
  | .ssLpf => true
  | .ssHpf => true
  | .ssPhaser => true
  | .ssAcc => true
  | .poOut => true
  | .wr off _ => alignedOffset off
  | .rd off => alignedOffset off
  | .waveSquare => true
  | .waveSawtooth => true
  | .waveSine => true
  | .waveNoise => true
  | .waveOther sel => otherSelector sel

end Sys2Proof
end

