-- ==== Sys2Proof/Decode.lean ====
section
/-! DEFINITION. The decoder, total on any bytes and refusing by name, and after it the encoder, both written from
the tables of 30_encoding.md (R114, R115, R120, R127) and 00_scope.md R23. -/

namespace Sys2Proof

/-- Why bytes are no instruction. -/
inductive DecodeError where
  /-- Not the number of bytes the format has (30_encoding.md R117 for the command word). -/
  | wrongLength
  /-- An id that the table of 30_encoding.md R120 does not list: unused, never loaded into `upc`. -/
  | unusedMicroOp
  /-- A transaction word with a bit set among [62:48] (30_encoding.md R127: they are 0). -/
  | txnReservedBits
  /-- A read transaction whose data field is not 0 (30_encoding.md R127). -/
  | txnReadData
  deriving DecidableEq, Repr

/-- The command of a word written to CTRL: `cmd = v[3:0]`, the other bits ignored (30_encoding.md R114, R115). -/
def decodeCmd (v : BitVec 32) : Instr :=
  match (v.extractLsb' 0 4).toNat with
  | 0 => .nop
  | 1 => .setup
  | 2 => .step
  | 3 => .run
  | 4 => .abort
  | 5 => .clrerr
  | 6 => .reserved6
  | 7 => .reserved7
  | 8 => .reserved8
  | 9 => .reserved9
  | 10 => .reservedA
  | 11 => .reservedB
  | 12 => .reservedC
  | 13 => .reservedD
  | 14 => .reservedE
  | _ => .reservedF

/-- The micro-operation of an id (30_encoding.md R120). -/
def decodeUop (id : BitVec 8) : Except DecodeError Instr :=
  match id.toNat with
  | 0x0 => .ok .idle
  | 0x10 => .ok .suReseed
  | 0x11 => .ok .suClamp
  | 0x12 => .ok .suClear
  | 0x13 => .ok .suPeriod
  | 0x14 => .ok .suSlide
  | 0x15 => .ok .suArp
  | 0x16 => .ok .suDuty
  | 0x17 => .ok .suFilter
  | 0x18 => .ok .suVibrato
  | 0x19 => .ok .suEnvlen
  | 0x1a => .ok .suPhaser
  | 0x1b => .ok .suRepeat
  | 0x1c => .ok .suNoise
  | 0x20 => .ok .psRepeat
  | 0x21 => .ok .psArp
  | 0x22 => .ok .psSlide
  | 0x23 => .ok .psVibrato
  | 0x24 => .ok .psPeriod
  | 0x25 => .ok .psDuty
  | 0x26 => .ok .psEnv
  | 0x27 => .ok .psPhaserTap
  | 0x28 => .ok .psHpSweep
  | 0x29 => .ok .psSsclr
  | 0x30 => .ok .ssPhase
  | 0x31 => .ok .ssWave
  | 0x32 => .ok .ssLpf
  | 0x33 => .ok .ssHpf
  | 0x34 => .ok .ssPhaser
  | 0x35 => .ok .ssAcc
  | 0x40 => .ok .poOut
  | _ => .error .unusedMicroOp

/-- The host transaction of a word (30_encoding.md R127): bit 63 is W, [62:48] are 0, [47:32] the offset, [31:0]
the data, 0 for a read. -/
def decodeTxn (w : BitVec 64) : Except DecodeError Instr :=
  if w.extractLsb' 48 15 ≠ 0#15 then .error .txnReservedBits
  else if w.extractLsb' 63 1 = 1#1 then .ok (.wr (w.extractLsb' 32 16) (w.extractLsb' 0 32))
  else if w.extractLsb' 0 32 ≠ 0#32 then .error .txnReadData
  else .ok (.rd (w.extractLsb' 32 16))

/-- The SS_WAVE case a waveform selector picks (00_scope.md R23, R24; 45_oscillator.md R263). -/
def decodeWave (sel : I32) : Instr :=
  match sel.toNat with
  | 0 => .waveSquare
  | 1 => .waveSawtooth
  | 2 => .waveSine
  | 3 => .waveNoise
  | _ => .waveOther sel

/-- Four bytes as a word, least significant byte first (20_memory.md R87). -/
def le32 (b0 b1 b2 b3 : Byte) : BitVec 32 := b3 ++ b2 ++ b1 ++ b0

/-- Eight bytes as a transaction word, least significant byte first: the spec gives only the word (30_encoding.md R127),
and the order of its bytes is the model's (log 29, DESIGN CHOICE). -/
def le64 (b0 b1 b2 b3 b4 b5 b6 b7 : Byte) : BitVec 64 := le32 b4 b5 b6 b7 ++ le32 b0 b1 b2 b3

/-- The decoder: the instruction that bytes of a format are, or the name of what is wrong. The bytes of a command word
and of a waveform selector are those of a window word (20_memory.md R87); that those of a transaction word come least
significant first is the model's choice (log 29). -/
def decode : Format → List Byte → Except DecodeError Instr
  | .cmdw, [b0, b1, b2, b3] => .ok (decodeCmd (le32 b0 b1 b2 b3))
  | .uop, [b0] => decodeUop b0
  | .txn, [b0, b1, b2, b3, b4, b5, b6, b7] => decodeTxn (le64 b0 b1 b2 b3 b4 b5 b6 b7)
  | .wavesel, [b0, b1, b2, b3] => .ok (decodeWave (le32 b0 b1 b2 b3))
  | _, _ => .error .wrongLength

/-! The encoder. -/

/-- The four bytes of a word, least significant first (20_memory.md R87). -/
def bytes32 (w : BitVec 32) : List Byte :=
  [w.extractLsb' 0 8, w.extractLsb' 8 8, w.extractLsb' 16 8, w.extractLsb' 24 8]

/-- The eight bytes of a transaction word, least significant first: the model's order (log 29, DESIGN CHOICE). -/
def bytes64 (w : BitVec 64) : List Byte :=
  bytes32 (w.extractLsb' 0 32) ++ bytes32 (w.extractLsb' 32 32)

/-- The transaction word of 30_encoding.md R127. -/
def txnWord (write : Bool) (off : BitVec 16) (data : BitVec 32) : BitVec 64 :=
  BitVec.ofBool write ++ 0#15 ++ off ++ data

/-- The bytes of an instruction in its own format. -/
def encode : Instr → List Byte
  | .nop => bytes32 0x0#32
  | .setup => bytes32 0x1#32
  | .step => bytes32 0x2#32
  | .run => bytes32 0x3#32
  | .abort => bytes32 0x4#32
  | .clrerr => bytes32 0x5#32
  | .reserved6 => bytes32 0x6#32
  | .reserved7 => bytes32 0x7#32
  | .reserved8 => bytes32 0x8#32
  | .reserved9 => bytes32 0x9#32
  | .reservedA => bytes32 0xa#32
  | .reservedB => bytes32 0xb#32
  | .reservedC => bytes32 0xc#32
  | .reservedD => bytes32 0xd#32
  | .reservedE => bytes32 0xe#32
  | .reservedF => bytes32 0xf#32
  | .idle => [0x00#8]
  | .suReseed => [0x10#8]
  | .suClamp => [0x11#8]
  | .suClear => [0x12#8]
  | .suPeriod => [0x13#8]
  | .suSlide => [0x14#8]
  | .suArp => [0x15#8]
  | .suDuty => [0x16#8]
  | .suFilter => [0x17#8]
  | .suVibrato => [0x18#8]
  | .suEnvlen => [0x19#8]
  | .suPhaser => [0x1a#8]
  | .suRepeat => [0x1b#8]
  | .suNoise => [0x1c#8]
  | .psRepeat => [0x20#8]
  | .psArp => [0x21#8]
  | .psSlide => [0x22#8]
  | .psVibrato => [0x23#8]
  | .psPeriod => [0x24#8]
  | .psDuty => [0x25#8]
  | .psEnv => [0x26#8]
  | .psPhaserTap => [0x27#8]
  | .psHpSweep => [0x28#8]
  | .psSsclr => [0x29#8]
  | .ssPhase => [0x30#8]
  | .ssWave => [0x31#8]
  | .ssLpf => [0x32#8]
  | .ssHpf => [0x33#8]
  | .ssPhaser => [0x34#8]
  | .ssAcc => [0x35#8]
  | .poOut => [0x40#8]
  | .wr off data => bytes64 (txnWord true off data)
  | .rd off => bytes64 (txnWord false off 0#32)
  | .waveSquare => bytes32 0#32
  | .waveSawtooth => bytes32 1#32
  | .waveSine => bytes32 2#32
  | .waveNoise => bytes32 3#32
  | .waveOther sel => bytes32 sel

/-! The words of spec/opcode_table.json. -/

/-- The format a table word is read in, from how many bits the table gives its row. A row of at most 8 bits is a
micro-operation id if the byte is one other than 0x00, and a command word otherwise: the two formats share the byte
0x00 (NOP and IDLE), and the word is the command (log 14). -/
def tableFormat (nbits w : Nat) : Option Format :=
  if nbits ≤ 8 then
    if w ≠ 0 ∧ (decodeUop (BitVec.ofNat 8 w)).toOption.isSome then some .uop else some .cmdw
  else if nbits ≤ 32 then some .wavesel
  else if nbits ≤ 64 then some .txn
  else none

/-- The bytes of a table word in a format: bits above the row's own are 0. -/
def tableBytes (f : Format) (w : Nat) : List Byte :=
  match f with
  | .cmdw => bytes32 (BitVec.ofNat 32 w)
  | .uop => [BitVec.ofNat 8 w]
  | .txn => bytes64 (BitVec.ofNat 64 w)
  | .wavesel => bytes32 (BitVec.ofNat 32 w)

/-- The instruction the decoder reads from a word of the opcode table. -/
def decodeTableWord (nbits w : Nat) : Option Instr :=
  match tableFormat nbits w with
  | some f => (decode f (tableBytes f w)).toOption
  | none => none

end Sys2Proof
end

