-- ==== Sys2Proof/Config.lean ====
section
/-! DEFINITION. What an implementation fixes and what the spec leaves open: the shape of the parameters of
00_scope.md R8 and R25, and the free values, each an opaque constant without a body. The spec's default values
of the parameters are `Sys2Proof.Machine.specParams` (Machine/Params.lean). -/

namespace Sys2Proof

/-- The parameter `HP_SWEEP_GATE` (44_phaser_tap_hp_sweep.md R251): which test enables the high-pass sweep. -/
inductive HpSweepGate where
  /-- Sweep when `S.flthpd != 0` (the spec's default). -/
  | factorNonzero
  /-- Sweep when `PRM.hpfCutoffSweep != 0`. -/
  | paramNonzero
  deriving DecidableEq, Repr

/-- The constants record `K` of 00_scope.md R25, field by field. -/
structure Constants where
  perNum : F64
  perEps : F64
  slide : F64
  dslide : F64
  dutyBase : F32
  dutyMul : F32
  dutySweep : F32
  arpPos : F64
  arpNeg : F64
  limMul : F64
  limAdd : F64
  lpw : F32
  lpwd : F32
  dmpNum : F64
  dmpRes : F64
  dmpAdd : F32
  dmpMax : F32
  hp : F32
  hpd : F32
  hpMin : F32
  hpMax : F32
  vibSpd : F32
  vibAmp : F32
  env : F32
  phOff : F64
  phSwp : F64
  lpwMax : F32
  dutyMax : F32
  minPeriod : I32
  tapMax : I32
  sq : F32
  outScale : F32
  deriving DecidableEq, Repr

/-- The parameter `NAN_BITS` (00_scope.md R18): the pattern of a NaN result as a function of the operands of the
operation that makes it. An operation on two operands uses `bin32` or `bin64`; the conversions use `widen` and
`narrow`. -/
structure NanBits where
  bin32 : F32 → F32 → F32
  bin64 : F64 → F64 → F64
  widen : F32 → F64
  narrow : F64 → F32

/-- The named parameters a model takes (00_scope.md R8). The parameter `RNG` is two: `rng seed n` is the algorithm
`RNG_ALGO`, the raw value of draw number `n` since a reseed with `seed`, and `ambient n` is the raw value of a draw that
no reseed governs, `n` counting every draw ever made (60_exceptions.md R333). -/
structure Params where
  K : Constants
  sin32 : F32 → F32
  nan : NanBits
  cvtOor : I32
  hpSweepGate : HpSweepGate
  rng : I32 → Nat → F32
  ambient : Nat → F32

/-- The default sine of an argument whose rounding its enclosure leaves open, of which none is known
(`Machine.roundedSine`; 00_scope.md R17). Free (log 7). -/
opaque Config.sineOpen : F32 → F32

/-- The random source's algorithm `RNG_ALGO` (60_exceptions.md R333; 92_eei_decisions.md D19), which no source
gives. Free (log 6). -/
opaque Config.rngAlgo : I32 → Nat → F32

/-- The draws of ambient randomness: those before any reseed and those under seed 0, any value each and in no relation
to an earlier run (60_exceptions.md R333; 93_implementation_defined.md U7, U8). Free (log 6). -/
opaque Config.ambientDraw : Nat → F32

/-- At contested boundary number `n`: does the host move before the engine (20_memory.md R92: any interleaving is
possible)? Free (log 2). -/
opaque Config.hostFirst : Nat → Bool

/-- `a mod b` for operands outside `a ≥ 0`, `b > 0`, where 00_scope.md R12 gives no value. Free (log 10). -/
opaque Config.modOpen : I32 → I32 → I32

/-- The noise index for a phase and a period outside `phase ≥ 0`, `period > 0`, where 00_scope.md R12 gives no
quotient. Free (log 10). -/
opaque Config.divOpen : I32 → I32 → Nat

/-- `NTRead(j)` for `j` outside 0..31, which no rule calls (20_memory.md R98). Free (log 11). -/
opaque Config.ntOpen : Nat → F32

/-- `S.envLen[stage]` for a stage outside 0..2, which no rule reads (43_duty_envelope.md R231). Free (log 12). -/
opaque Config.envLenOpen : I32 → I32

end Sys2Proof
end

