-- ==== Sys2Proof/Machine/Float.lean ====
section
/-! DEFINITION. The arithmetic primitives of 00_scope.md R12 to R19: `i32` operations, IEEE-754 binary32 and
binary64 arithmetic rounded to nearest even, comparisons and conversions.

A finite number of a format is a whole number of its smallest subnormal, `unit`: `±u · 2^(-unit)`. Each operation
computes its exact result, a ratio of natural numbers of units, and rounds it once (`Fmt.roundMag`). -/

namespace Sys2Proof.Machine

/-- A binary interchange format: fraction bits, exponent bits, and the exponent of the smallest subnormal
`2^(-unit)`. -/
structure Fmt where
  frac : Nat
  expo : Nat
  unit : Nat
  deriving DecidableEq, Repr

/-- binary32. -/
def binary32 : Fmt := { frac := 23, expo := 8, unit := 149 }

/-- binary64. -/
def binary64 : Fmt := { frac := 52, expo := 11, unit := 1074 }

/-- The sign bit's place value; a pattern is below twice it. -/
def Fmt.signBit (F : Fmt) : Nat := 2 ^ (F.expo + F.frac)

/-- The magnitude pattern of infinity: exponent all ones, fraction 0. -/
def Fmt.infMag (F : Fmt) : Nat := (2 ^ F.expo - 1) * 2 ^ F.frac

/-- The sign of a pattern. -/
def Fmt.neg (F : Fmt) (pat : Nat) : Bool := Nat.ble F.signBit pat

/-- The magnitude part of a pattern: everything but the sign. -/
def Fmt.mag (F : Fmt) (pat : Nat) : Nat := pat % F.signBit

/-- A pattern from a sign and a magnitude. -/
def Fmt.pack (F : Fmt) (neg : Bool) (mag : Nat) : Nat := cond neg (F.signBit + mag) mag

/-- The value of a finite magnitude pattern, in units of the smallest subnormal. -/
def Fmt.units (F : Fmt) (mag : Nat) : Nat :=
  match mag / 2 ^ F.frac with
  | 0 => mag
  | e + 1 => (2 ^ F.frac + mag % 2 ^ F.frac) * 2 ^ e

/-- What a pattern stands for. -/
inductive Num where
  | nan
  | inf (neg : Bool)
  | fin (neg : Bool) (units : Nat)
  deriving DecidableEq, Repr

/-- The number a pattern stands for. -/
def Fmt.num (F : Fmt) (pat : Nat) : Num :=
  let m := F.mag pat
  if F.infMag < m then .nan
  else if m = F.infMag then .inf (F.neg pat)
  else .fin (F.neg pat) (F.units m)

/-- `n / d` units rounded to nearest, ties to even, as a magnitude pattern; infinity on overflow (00_scope.md R13).
`shift` is how many low bits of the whole part the format cannot hold; a result that rounds up to the next binade
carries into the exponent by the addition. -/
def Fmt.roundMag (F : Fmt) (n d : Nat) : Nat :=
  let shift := Nat.log2 (n / d) - F.frac
  let step := d * 2 ^ shift
  let k := n / step
  let r := n % step
  let up := if step < 2 * r ∨ (2 * r = step ∧ k % 2 = 1) then 1 else 0
  Nat.min F.infMag (shift * 2 ^ F.frac + (k + up))

/-- A number's signed value in units. -/
def signed (neg : Bool) (u : Nat) : Int := cond neg (-(u : Int)) (u : Int)

/-- The pattern of an exact signed sum in units; an exact zero takes the given sign. -/
def Fmt.roundSum (F : Fmt) (zeroNeg : Bool) (z : Int) : Nat :=
  if z = 0 then F.pack zeroNeg 0 else F.pack (decide (z < 0)) (F.roundMag z.natAbs 1)

/-- Addition; `none` where the result is a NaN. A zero sum is `-0` only if both operands are negative zeros. -/
def Fmt.add (F : Fmt) : Num → Num → Option Nat
  | .nan, _ => none
  | .inf _, .nan => none
  | .fin _ _, .nan => none
  | .inf s, .inf t => if s = t then some (F.pack s F.infMag) else none
  | .inf s, .fin _ _ => some (F.pack s F.infMag)
  | .fin _ _, .inf t => some (F.pack t F.infMag)
  | .fin s u, .fin t v => some (F.roundSum (s && t) (signed s u + signed t v))

/-- A number with its sign flipped. -/
def Num.negate : Num → Num
  | .nan => .nan
  | .inf s => .inf (!s)
  | .fin s u => .fin (!s) u

/-- Multiplication; `none` where the result is a NaN. -/
def Fmt.mul (F : Fmt) : Num → Num → Option Nat
  | .nan, _ => none
  | .inf _, .nan => none
  | .fin _ _, .nan => none
  | .inf s, .inf t => some (F.pack (s ^^ t) F.infMag)
  | .inf s, .fin t v => if v = 0 then none else some (F.pack (s ^^ t) F.infMag)
  | .fin s u, .inf t => if u = 0 then none else some (F.pack (s ^^ t) F.infMag)
  | .fin s u, .fin t v => some (F.pack (s ^^ t) (F.roundMag (u * v) (2 ^ F.unit)))

/-- Division; `none` where the result is a NaN. A finite number over zero is infinite. -/
def Fmt.div (F : Fmt) : Num → Num → Option Nat
  | .nan, _ => none
  | .inf _, .nan => none
  | .fin _ _, .nan => none
  | .inf _, .inf _ => none
  | .inf s, .fin t _ => some (F.pack (s ^^ t) F.infMag)
  | .fin s _, .inf t => some (F.pack (s ^^ t) 0)
  | .fin s u, .fin t v =>
    if v = 0 then (if u = 0 then none else some (F.pack (s ^^ t) F.infMag))
    else some (F.pack (s ^^ t) (F.roundMag (u * 2 ^ F.unit) v))

/-- The number a binary32 pattern stands for. -/
def num32 (x : F32) : Num := binary32.num x.toNat

/-- The number a binary64 pattern stands for. -/
def num64 (x : F64) : Num := binary64.num x.toNat

/-- A binary32 result: the rounded pattern, or NAN_BITS of the operands (00_scope.md R18). -/
def result32 (P : Params) (a b : F32) (r : Option Nat) : F32 :=
  match r with
  | some m => BitVec.ofNat 32 m
  | none => P.nan.bin32 a b

/-- A binary64 result: the rounded pattern, or NAN_BITS of the operands (00_scope.md R18). -/
def result64 (P : Params) (a b : F64) (r : Option Nat) : F64 :=
  match r with
  | some m => BitVec.ofNat 64 m
  | none => P.nan.bin64 a b

/-- `add32` (00_scope.md R13). -/
def add32 (P : Params) (a b : F32) : F32 := result32 P a b (binary32.add (num32 a) (num32 b))

/-- `sub32` (00_scope.md R13). -/
def sub32 (P : Params) (a b : F32) : F32 := result32 P a b (binary32.add (num32 a) (num32 b).negate)

/-- `mul32` (00_scope.md R13). -/
def mul32 (P : Params) (a b : F32) : F32 := result32 P a b (binary32.mul (num32 a) (num32 b))

/-- `div32` (00_scope.md R13). -/
def div32 (P : Params) (a b : F32) : F32 := result32 P a b (binary32.div (num32 a) (num32 b))

/-- `add64` (00_scope.md R13). -/
def add64 (P : Params) (a b : F64) : F64 := result64 P a b (binary64.add (num64 a) (num64 b))

/-- `sub64` (00_scope.md R13). -/
def sub64 (P : Params) (a b : F64) : F64 := result64 P a b (binary64.add (num64 a) (num64 b).negate)

/-- `mul64` (00_scope.md R13). -/
def mul64 (P : Params) (a b : F64) : F64 := result64 P a b (binary64.mul (num64 a) (num64 b))

/-- `div64` (00_scope.md R13). -/
def div64 (P : Params) (a b : F64) : F64 := result64 P a b (binary64.div (num64 a) (num64 b))

/-- A number re-rounded into a format: exact when the format is wider. -/
def Fmt.convert (F G : Fmt) : Num → Option Nat
  | .nan => none
  | .inf s => some (G.pack s G.infMag)
  | .fin s u => some (G.pack s (G.roundMag (u * 2 ^ G.unit) (2 ^ F.unit)))

/-- `f64(x)`: exact widening (00_scope.md R13). -/
def f64 (P : Params) (x : F32) : F64 :=
  match binary32.convert binary64 (num32 x) with
  | some m => BitVec.ofNat 64 m
  | none => P.nan.widen x

/-- `cvt32(y)`: rounding to binary32 (00_scope.md R13). -/
def cvt32 (P : Params) (y : F64) : F32 :=
  match binary64.convert binary32 (num64 y) with
  | some m => BitVec.ofNat 32 m
  | none => P.nan.narrow y

/-- `neg(x)` flips the sign bit (00_scope.md R13). -/
def neg32 (x : F32) : F32 := x ^^^ 0x80000000#32

/-- `neg(x)` flips the sign bit (00_scope.md R13). -/
def neg64 (x : F64) : F64 := x ^^^ 0x8000000000000000#64

/-- `sq64(x)` (00_scope.md R15). -/
def sq64 (P : Params) (x : F32) : F64 := mul64 P (f64 P x) (f64 P x)

/-- `cube64(x)` (00_scope.md R15). -/
def cube64 (P : Params) (x : F32) : F64 := mul64 P (sq64 P x) (f64 P x)

/-! Comparisons (00_scope.md R14). -/

/-- A pattern that is a NaN. -/
def Fmt.isNan (F : Fmt) (pat : Nat) : Bool := Nat.blt F.infMag (F.mag pat)

/-- The order key of a pattern: magnitude patterns of one sign are ordered as their values, and both zeros have
key 0. -/
def Fmt.key (F : Fmt) (pat : Nat) : Int := signed (F.neg pat) (F.mag pat)

/-- Quiet `<`. -/
def Fmt.lt (F : Fmt) (a b : Nat) : Bool := !F.isNan a && !F.isNan b && decide (F.key a < F.key b)

/-- Quiet `==`. -/
def Fmt.eq (F : Fmt) (a b : Nat) : Bool := !F.isNan a && !F.isNan b && decide (F.key a = F.key b)

/-- A binary32 NaN. -/
def isNan32 (x : F32) : Bool := binary32.isNan x.toNat

/-- A binary64 NaN. -/
def isNan64 (x : F64) : Bool := binary64.isNan x.toNat

/-- `a < b` on f32; `a > b` is `lt32 b a`. -/
def lt32 (a b : F32) : Bool := binary32.lt a.toNat b.toNat

/-- `a == b` on f32; `a != b` is its negation, true on a NaN. -/
def eq32 (a b : F32) : Bool := binary32.eq a.toNat b.toNat

/-- `a >= b` on f32: false on a NaN. -/
def ge32 (a b : F32) : Bool := lt32 b a || eq32 a b

/-- `a < b` on f64; `a > b` is `lt64 b a`. -/
def lt64 (a b : F64) : Bool := binary64.lt a.toNat b.toNat

/-- The two ordered tests of every clamp, low first: a NaN passes both unchanged (00_scope.md R14). -/
def clamp32 (lo hi x : F32) : F32 :=
  let x := if lt32 x lo then lo else x
  if lt32 hi x then hi else x

/-! Conversions to and from integers (00_scope.md R16), and integer operations (R12). -/

/-- `trunc_i32` of a number of a format: toward zero when the truncated value lies in [-2^31, 2^31 - 1], `CVT_OOR`
otherwise. -/
def Fmt.trunc (P : Params) (F : Fmt) : Num → I32
  | .nan => P.cvtOor
  | .inf _ => P.cvtOor
  | .fin s u =>
    let t := u / 2 ^ F.unit
    if t < 2 ^ 31 ∨ (s = true ∧ t = 2 ^ 31) then BitVec.ofInt 32 (signed s t) else P.cvtOor

/-- `trunc_i32` of an f32. -/
def trunc32 (P : Params) (x : F32) : I32 := binary32.trunc P (num32 x)

/-- `trunc_i32` of an f64. -/
def trunc64 (P : Params) (y : F64) : I32 := binary64.trunc P (num64 y)

/-- `i2f32`: the nearest f32, ties to even. -/
def i2f32 (n : I32) : F32 :=
  BitVec.ofNat 32 (binary32.pack (decide (n.toInt < 0)) (binary32.roundMag (n.toInt.natAbs * 2 ^ binary32.unit) 1))

/-- `abs_i32`, with wrap: `abs_i32(0x80000000) = 0x80000000`. -/
def absI32 (v : I32) : I32 := if v.slt 0#32 then -v else v

/-- `a mod b` for `a ≥ 0` and `b > 0`; elsewhere no rule gives a value and it is free (log 10). -/
def modI32 (a b : I32) : I32 :=
  if !a.slt 0#32 && (0#32).slt b then BitVec.ofNat 32 (a.toNat % b.toNat) else Config.modOpen a b

/-! f32 and f64 literals of the rules (00_scope.md R19). -/

/-- `1.0f` -/
def one32 : F32 := 0x3F800000#32

/-- `-1.0f` -/
def negOne32 : F32 := 0xBF800000#32

/-- `2.0f` -/
def two32 : F32 := 0x40000000#32

/-- `8.0f` -/
def eight32 : F32 := 0x41000000#32

/-- `PI32` (00_scope.md R17) -/
def pi32 : F32 := 0x40490FDB#32

/-- `1.0` -/
def one64 : F64 := 0x3FF0000000000000#64

/-- `2.0` -/
def two64 : F64 := 0x4000000000000000#64

end Sys2Proof.Machine
end

