-- ==== Sys2Proof/Machine/Sine.lean ====
section
/-! DEFINITION. The spec's default of the parameter `SIN32`: the correctly rounded binary32 sine (00_scope.md R8, R17).

The sine of a finite number is enclosed between two ratios of whole numbers of units: the argument is reduced by the
multiple of π nearest to it, and the sine of what is left is a partial sum of its series, computed exactly. Where both
ends round to one pattern, that pattern is the correctly rounded sine (log 7). -/

namespace Sys2Proof.Machine

/-- Angles are whole multiples of `2^(-angleBits)`. -/
def angleBits : Nat := 384

/-- `⌊π · 2^384⌋`. -/
def piAngle : Nat :=
  0x3243f6a8885a308d313198a2e03707344a4093822299f31d0082efa98ec4e6c89452821e638d01377be5466cf34e90c6c

/-- How many terms of the sine's series follow its first. -/
def sineTerms : Nat := 48

/-- `1 - z²/(2j(2j+1)) · (1 - z²/((2j+2)(2j+3)) · …)`, `m` levels deep, for the square `z² = sq / den`, as a numerator
and a positive denominator. -/
def sineTail (sq den : Nat) : Nat → Nat → Int × Nat
  | 0, _ => (1, 1)
  | m + 1, j =>
    let t := sineTail sq den m (j + 1)
    let d := t.2 * den * (2 * j * (2 * j + 1))
    ((d : Int) - sq * t.1, d)

/-- An enclosure of a real number: `low / den` and `high / den`. -/
structure Enclosure where
  low : Int
  high : Int
  den : Nat
  deriving DecidableEq, Repr

/-- The multiple of π nearest to an angle. -/
def halfTurns (angle : Int) : Int := (2 * angle + piAngle) / (2 * piAngle)

/-- The sine of an angle: the sign of an odd number of half turns is flipped, and the error of the reduction, below one
angle unit for each half turn, and of the series, below one, widens the enclosure on both sides. -/
def sineEnclosure (angle : Int) : Enclosure :=
  let k := halfTurns angle
  let r := angle - k * piAngle
  let t := sineTail (r.natAbs ^ 2) (2 ^ (2 * angleBits)) sineTerms 1
  let mid := if k % 2 = 0 then r * t.1 else -(r * t.1)
  let err : Int := (k.natAbs + 1 : Nat) * t.2
  { low := mid - err, high := mid + err, den := 2 ^ angleBits * t.2 }

/-- A ratio rounded to nearest, ties to even, as a pattern; the ratio is the number's value, not its units. -/
def Fmt.roundRatio (F : Fmt) (num : Int) (den : Nat) : Nat :=
  F.pack (decide (num < 0)) (F.roundMag (num.natAbs * 2 ^ F.unit) den)

/-- The pattern that both ends of an enclosure round to, if it is one. -/
def Enclosure.rounded (F : Fmt) (e : Enclosure) : Option Nat :=
  if F.roundRatio e.low e.den = F.roundRatio e.high e.den then some (F.roundRatio e.low e.den) else none

/-- The angle of a binary32 number, exactly. -/
def angleOf (neg : Bool) (units : Nat) : Int := signed neg (units * 2 ^ (angleBits - binary32.unit))

/-- The correctly rounded sine of a number in binary32 units; a zero is its own sine. `none` where the enclosure leaves
the rounding open: no binary32 number is known to (log 7). -/
def sineRounded (neg : Bool) (units : Nat) : Option Nat :=
  if units = 0 then some (binary32.pack neg 0) else (sineEnclosure (angleOf neg units)).rounded binary32

/-- The default `SIN32` (00_scope.md R8, R17). The sine of an infinity is an invalid operation and that of a NaN is
quieted, by the NAN_BITS of the argument (R18). -/
def roundedSine (nan : F32 → F32) (x : F32) : F32 :=
  match num32 x with
  | .nan => nan x
  | .inf _ => nan x
  | .fin s u =>
    match sineRounded s u with
    | some pat => BitVec.ofNat 32 pat
    | none => Config.sineOpen x

end Sys2Proof.Machine
end

