-- ==== Sys2Proof/Machine/Params.lean ====
section
/-! DEFINITION. The default values the spec chooses for its parameters (00_scope.md R8, R16 to R18, R25), and the
fixed sizes of 00_scope.md R7. The datapath functions take the parameters as an argument; `exec` runs them at
`specParams`. -/

namespace Sys2Proof.Machine

/-- The default values of the constants record `K` (00_scope.md R25). -/
def specConstants : Constants where
  perNum := 0x4059000000000000#64 -- 100.0
  perEps := 0x3F50624DD2F1A9FC#64 -- 0.001
  slide := 0x3F847AE147AE147B#64 -- 0.01
  dslide := 0x3EB0C6F7A0B5ED8D#64 -- 0.000001
  dutyBase := 0x3F000000#32 -- 0.5f
  dutyMul := 0x3F000000#32 -- 0.5f
  dutySweep := 0x3851B717#32 -- 0.00005f
  arpPos := 0x3FECCCCCCCCCCCCD#64 -- 0.9
  arpNeg := 0x4024000000000000#64 -- 10.0
  limMul := 0x40D3880000000000#64 -- 20000.0
  limAdd := 0x4040000000000000#64 -- 32.0
  lpw := 0x3DCCCCCD#32 -- 0.1f
  lpwd := 0x38D1B717#32 -- 0.0001f
  dmpNum := 0x4014000000000000#64 -- 5.0
  dmpRes := 0x4034000000000000#64 -- 20.0
  dmpAdd := 0x3C23D70A#32 -- 0.01f
  dmpMax := 0x3F4CCCCD#32 -- 0.8f
  hp := 0x3DCCCCCD#32 -- 0.1f
  hpd := 0x399D4952#32 -- 0.0003f
  hpMin := 0x3727C5AC#32 -- 0.00001f
  hpMax := 0x3DCCCCCD#32 -- 0.1f
  vibSpd := 0x3C23D70A#32 -- 0.01f
  vibAmp := 0x3F000000#32 -- 0.5f
  env := 0x47C35000#32 -- 100000.0f
  phOff := 0x408FE00000000000#64 -- 1020.0
  phSwp := 0x3FF0000000000000#64 -- 1.0
  lpwMax := 0x3DCCCCCD#32 -- 0.1f
  dutyMax := 0x3F000000#32 -- 0.5f
  minPeriod := 8#32 -- 8
  tapMax := 1023#32 -- 1023
  sq := 0x3F000000#32 -- 0.5f
  outScale := 0x3E4CCCCD#32 -- 0.2f

/-- The first NaN operand with its quiet bit set, or the default NaN of an invalid operation, `0xFFC00000`
(00_scope.md R18). -/
def sseNan32 (a b : F32) : F32 :=
  if isNan32 a then a ||| 0x00400000#32
  else if isNan32 b then b ||| 0x00400000#32
  else 0xFFC00000#32

/-- The binary64 form of the same rule; the default NaN pattern of binary64 is the family's (log 8, PRESUMED). -/
def sseNan64 (a b : F64) : F64 :=
  if isNan64 a then a ||| 0x0008000000000000#64
  else if isNan64 b then b ||| 0x0008000000000000#64
  else 0xFFF8000000000000#64

/-- A widened NaN keeps its sign and payload and is quieted (log 8, PRESUMED). -/
def sseWiden (x : F32) : F64 :=
  x.extractLsb' 31 1 ++ 0x7FF#11 ++ (x.extractLsb' 0 23 ||| 0x400000#23) ++ 0#29

/-- `cvt32` of a NaN keeps the sign and the top payload bits (00_scope.md R18), quieted. -/
def sseNarrow (y : F64) : F32 :=
  y.extractLsb' 63 1 ++ 0xFF#8 ++ (y.extractLsb' 29 23 ||| 0x400000#23)

/-- The default `NAN_BITS`: x86-64 SSE behaviour (00_scope.md R18). -/
def sseNanBits : NanBits where
  bin32 := sseNan32
  bin64 := sseNan64
  widen := sseWiden
  narrow := sseNarrow

/-- The default `SIN32`: the correctly rounded sine, whose NaN results follow NAN_BITS (00_scope.md R8, R17, R18). -/
def specSine : F32 → F32 := roundedSine fun x => sseNan32 x x

/-- The parameters of 00_scope.md R8 at the spec's defaults; `RNG_ALGO` stays free (log 6, 7, 9). -/
def specParams : Params where
  K := specConstants
  sin32 := specSine
  nan := sseNanBits
  cvtOor := 0x80000000#32
  hpSweepGate := .factorNonzero
  rng := Config.rngAlgo
  ambient := Config.ambientDraw

/-! Fixed sizes (00_scope.md R7) and the metadata constants (10_state.md R40). -/

/-- CAPACITY: samples of a run at most. -/
def capacity : I32 := 441000#32

/-- RATE. -/
def sampleRate : BitVec 32 := 44100#32

/-- CHANNELS and BIT_DEPTH, as FORMAT holds them. -/
def formatWord : BitVec 32 := ((1#8 : BitVec 8) ++ (32#8 : BitVec 8)).setWidth 32

/-- IFREV. -/
def ifRev : BitVec 32 := 1#32

/-- DELAY_LEN. -/
def delayLen : Nat := 1024

/-- NOISE_LEN. -/
def noiseLen : Nat := 32

/-- SUPERSAMPLE. -/
def supersample : Nat := 8

end Sys2Proof.Machine
end

