-- ==== Sys2Proof/Machine/State.lean ====
section
/-! DEFINITION. The state of RFX-SYNTH (10_state.md) as plain data, the reasons a step stops, and the state after
power-on reset (70_reset_and_hazards.md R350). -/

namespace Sys2Proof.Machine

/-- The parameter register file (10_state.md R30, R31), in the order of the record. -/
structure Prm where
  randSeed : I32
  waveType : I32
  attackTime : F32
  sustainTime : F32
  sustainPunch : F32
  decayTime : F32
  startFrequency : F32
  minFrequency : F32
  slide : F32
  deltaSlide : F32
  vibratoDepth : F32
  vibratoSpeed : F32
  changeAmount : F32
  changeSpeed : F32
  squareDuty : F32
  dutySweep : F32
  repeatSpeed : F32
  phaserOffset : F32
  phaserSweep : F32
  lpfCutoff : F32
  lpfCutoffSweep : F32
  lpfResonance : F32
  hpfCutoff : F32
  hpfCutoffSweep : F32
  deriving DecidableEq, Repr

/-- Every parameter register 0 (10_state.md R31). -/
def Prm.zero : Prm where
  randSeed := 0#32
  waveType := 0#32
  attackTime := 0#32
  sustainTime := 0#32
  sustainPunch := 0#32
  decayTime := 0#32
  startFrequency := 0#32
  minFrequency := 0#32
  slide := 0#32
  deltaSlide := 0#32
  vibratoDepth := 0#32
  vibratoSpeed := 0#32
  changeAmount := 0#32
  changeSpeed := 0#32
  squareDuty := 0#32
  dutySweep := 0#32
  repeatSpeed := 0#32
  phaserOffset := 0#32
  phaserSweep := 0#32
  lpfCutoff := 0#32
  lpfCutoffSweep := 0#32
  lpfResonance := 0#32
  hpfCutoff := 0#32
  hpfCutoffSweep := 0#32

/-- `STATUS.STATE` (10_state.md R37). -/
inductive RunState where
  /-- No run has been set up since reset or ABORT. -/
  | idle
  /-- SETUP has completed; the run has not terminated and is not running free. -/
  | ready
  /-- A RUN command is producing samples. -/
  | running
  /-- The run has terminated. -/
  | done
  deriving DecidableEq, Repr

/-- The Synthesis State registers (10_state.md R42 to R45), in the order of their debug offsets. -/
structure Synth where
  /-- oscillator phase counter, in sub-sample steps -/
  phase : I32
  /-- integer period used by the oscillator -/
  period : I32
  /-- current real period -/
  fperiod : F64
  /-- maximum period -/
  fmaxperiod : F64
  /-- multiplicative slide factor -/
  fslide : F64
  /-- slide increment per sample -/
  fdslide : F64
  /-- arpeggio modulation factor -/
  arpMod : F64
  /-- current square duty threshold -/
  squareDuty : F32
  /-- duty increment per sample -/
  squareSlide : F32
  /-- 0 attack, 1 sustain, 2 decay, 3 terminal -/
  envStage : I32
  /-- samples into the current stage -/
  envTime : I32
  /-- attack length -/
  envLen0 : I32
  /-- sustain length -/
  envLen1 : I32
  /-- decay length -/
  envLen2 : I32
  /-- current envelope volume -/
  envVol : F32
  /-- phaser offset accumulator -/
  fphase : F32
  /-- phaser sweep per sample -/
  fdphase : F32
  /-- integer tap -/
  iphase : I32
  /-- delay-line write index -/
  ipp : I32
  /-- low-pass position -/
  fltp : F32
  /-- low-pass delta -/
  fltdp : F32
  /-- low-pass bandwidth -/
  fltw : F32
  /-- low-pass bandwidth sweep factor -/
  fltwd : F32
  /-- low-pass damping -/
  fltdmp : F32
  /-- high-pass position -/
  fltphp : F32
  /-- high-pass coefficient -/
  flthp : F32
  /-- high-pass sweep factor -/
  flthpd : F32
  /-- vibrato LFO phase -/
  vibPhase : F32
  /-- vibrato phase increment -/
  vibSpeed : F32
  /-- vibrato amplitude -/
  vibAmp : F32
  /-- repeat counter -/
  repTime : I32
  /-- repeat limit, 0 = off -/
  repLimit : I32
  /-- arpeggio counter -/
  arpTime : I32
  /-- arpeggio limit, 0 = off or spent -/
  arpLimit : I32
  /-- the generating flag `S.gen` (R45), mirrored in STATUS.GEN -/
  gen : Bool
  deriving DecidableEq, Repr

/-- Every Synthesis State register zero, with the generating flag given: the values at reset (R53, flag 0) and
after SETUP's clear (R52, flag 1). -/
def Synth.zero (gen : Bool) : Synth where
  phase := 0#32
  period := 0#32
  fperiod := 0#64
  fmaxperiod := 0#64
  fslide := 0#64
  fdslide := 0#64
  arpMod := 0#64
  squareDuty := 0#32
  squareSlide := 0#32
  envStage := 0#32
  envTime := 0#32
  envLen0 := 0#32
  envLen1 := 0#32
  envLen2 := 0#32
  envVol := 0#32
  fphase := 0#32
  fdphase := 0#32
  iphase := 0#32
  ipp := 0#32
  fltp := 0#32
  fltdp := 0#32
  fltw := 0#32
  fltwd := 0#32
  fltdmp := 0#32
  fltphp := 0#32
  flthp := 0#32
  flthpd := 0#32
  vibPhase := 0#32
  vibSpeed := 0#32
  vibAmp := 0#32
  repTime := 0#32
  repLimit := 0#32
  arpTime := 0#32
  arpLimit := 0#32
  gen := gen

/-- The sequencer's state and temporaries (10_state.md R48). -/
structure Seq where
  /-- the id of the micro-operation being performed, 0x00 between transitions -/
  upc : BitVec 8
  /-- the sub-sample counter -/
  si : BitVec 3
  rfperiod : F32
  ssample : F32
  sample : F32
  pp : F32
  fp : F32
  deriving DecidableEq, Repr

/-- The sequencer at reset: `upc` and `si` 0 (R53); the temporaries, whose reset value is unspecified (R48), zero
(DESIGN CHOICE, log 5, unsafe). -/
def Seq.zero : Seq where
  upc := 0#8
  si := 0#3
  rfperiod := 0#32
  ssample := 0#32
  sample := 0#32
  pp := 0#32
  fp := 0#32

/-- The delay line and the noise table as bytes at their host-window addresses (20_memory.md R81, R85): a list of
(address, byte) pairs in one canonical form, addresses strictly rising and no byte 0 listed. -/
abbrev Memory := List Host.Cell

/-- What an address that is not listed reads as: the reset contents +0.0 of every slot (10_state.md R46, R47). -/
def Memory.unlisted : Byte := 0#8

/-- Every listed address is above `low`, addresses rise strictly, and no listed byte is the unlisted one. -/
def Memory.wfAbove : Nat → Memory → Bool
  | _, [] => true
  | low, (a, b) :: rest => decide (low ≤ a) && (b != Memory.unlisted) && Memory.wfAbove (a + 1) rest

/-- The canonical form. -/
def Memory.wf (m : Memory) : Bool := Memory.wfAbove 0 m

/-- One event of the sample output port (48_output.md R302). -/
structure Emission where
  index : I32
  value : F32
  deriving DecidableEq, Repr

/-- What is known at the block of the external random source (10_state.md R50; 60_exceptions.md R333): the seed of the
reseed that governs the next draw, `none` for ambient randomness (before any reseed, and from a SETUP with seed 0 on),
the draws since that reseed, and the MODEL's own count of every draw, at which the ambient ones are read (log 6). -/
structure RngSource where
  seed : Option I32
  draws : Nat
  total : Nat
  deriving DecidableEq, Repr

/-- One pending input at the block's host side. -/
inductive HostInput where
  /-- A transaction word of a host transcript (30_encoding.md R127). -/
  | txn (word : BitVec 64)
  /-- `MemRead` or `MemWrite` of a size in bytes at a window address (00_scope.md R10; 20_memory.md R88). -/
  | access (size : Nat) (write : Bool) (addr : BitVec 16) (data : BitVec 32)
  /-- Power-on reset is asserted (70_reset_and_hazards.md R350, R351). -/
  | reset
  deriving DecidableEq, Repr

/-- The state of the block and of what stands at its ports. -/
structure State where
  prm : Prm
  /-- STATUS.STATE -/
  run : RunState
  termEnv : Bool
  termFloor : Bool
  termCap : Bool
  cmdErr : Bool
  wErr : Bool
  sampleCount : I32
  sampleOut : F32
  syn : Synth
  /-- DL and NT -/
  mem : Memory
  seq : Seq
  /-- the output port's events, the newest first -/
  emitted : List Emission
  rng : RngSource
  /-- the MODEL's own: the host's pending inputs, the next first (log 3) -/
  inputs : List HostInput
  /-- the MODEL's own: the value the last host read returned (log 4) -/
  hostRdata : BitVec 32
  /-- the MODEL's own: the host moves first at the next contested boundary (log 2) -/
  hostTurn : Bool
  /-- the MODEL's own: how many boundary decisions have been drawn (log 2) -/
  tick : Nat
  deriving DecidableEq, Repr

/-- The block takes no trap and no operation of it can fault (60_exceptions.md R320): there is no reason to fault. -/
inductive Fault where
  deriving DecidableEq, Repr

/-- Why a step has no meaning. None of these is a state of the block: the rule says there is no step. -/
inductive Refusal where
  /-- Raised by `exec` for an instruction without a meaning yet. Safe: nothing is claimed of it. No arm raises it. -/
  | notModelled (mnemonic : String)
  /-- Raised by WR and RD at an offset that is not a multiple of 4: a model has no step (20_memory.md R88). Safe. -/
  | misalignedAccess
  /-- Raised by a host access of a size other than 4: a model has no step (20_memory.md R88). Safe. -/
  | accessSize
  /-- Raised by a transaction word that 30_encoding.md R127 does not give. Safe. -/
  | badTransaction
  /-- Raised by an `upc` that 30_encoding.md R120 does not list and never loads. Safe. -/
  | unusedMicroOp
  deriving DecidableEq, Repr

/-- The machine right after power-on reset (70_reset_and_hazards.md R350; 10_state.md R53). No host input is
pending; the temporaries, the read value and the model's own fields are DESIGN CHOICES (log 2 to 6). -/
def State.reset : State where
  prm := Prm.zero
  run := .idle
  termEnv := false
  termFloor := false
  termCap := false
  cmdErr := false
  wErr := false
  sampleCount := 0#32
  sampleOut := 0#32
  syn := Synth.zero false
  mem := []
  seq := Seq.zero
  emitted := []
  rng := { seed := none, draws := 0, total := 0 }
  inputs := []
  hostRdata := 0#32
  hostTurn := true
  tick := 0

end Sys2Proof.Machine
end

