-- ==== Sys2Proof/Machine/Ops.lean ====
section
/-! DEFINITION. The named operations over memory, registers and ports: the delay line and the noise table
(20_memory.md R98), the random-source port (60_exceptions.md R333), the output port (48_output.md R302), the error
bits and the termination causes (60_exceptions.md R321, R323), and power-on reset (70_reset_and_hazards.md R350).
There is no exception entry and no return from one: the block takes no trap (60_exceptions.md R320), and what a
processor would trap on is recorded here as a sticky bit. -/

namespace Sys2Proof.Machine

/-! ## Register groups: one update each -/

/-- Replace the parameter registers. -/
def State.setPrm (s : State) (p : Prm) : State := { s with prm := p }

/-- Replace STATUS.STATE. -/
def State.setRun (s : State) (r : RunState) : State := { s with run := r }

/-- Replace the Synthesis State. -/
def State.setSyn (s : State) (y : Synth) : State := { s with syn := y }

/-- Replace the delay line and noise table. -/
def State.setMem (s : State) (m : Memory) : State := { s with mem := m }

/-- Replace the sequencer's registers. -/
def State.setSeq (s : State) (q : Seq) : State := { s with seq := q }

/-- Replace what is observed of the random source. -/
def State.setRng (s : State) (r : RngSource) : State := { s with rng := r }

/-- Load the micro-program counter (10_state.md R48). -/
def State.setUpc (s : State) (u : BitVec 8) : State := { s with seq := { s.seq with upc := u } }

/-- Load the sub-sample counter (10_state.md R48). -/
def State.setSi (s : State) (k : BitVec 3) : State := { s with seq := { s.seq with si := k } }

/-- Write the temporary `sample`. -/
def State.setSample (s : State) (v : F32) : State := { s with seq := { s.seq with sample := v } }

/-- Write the temporary `ssample`. -/
def State.setSsample (s : State) (v : F32) : State := { s with seq := { s.seq with ssample := v } }

/-- Hand a value to the host (the model's own register, log 4). -/
def State.setRdata (s : State) (v : BitVec 32) : State := { s with hostRdata := v }

/-! ## Memory -/

/-- One byte of memory. -/
def Memory.readByte : Memory → Nat → Byte
  | [], _ => Memory.unlisted
  | (x, v) :: rest, a => if a < x then Memory.unlisted else if a = x then v else Memory.readByte rest a

/-- Store one byte, keeping the canonical form: the unlisted byte removes the entry. -/
def Memory.writeByte : Memory → Nat → Byte → Memory
  | [], a, b => if b = Memory.unlisted then [] else [(a, b)]
  | (x, v) :: rest, a, b =>
    if a < x then (if b = Memory.unlisted then (x, v) :: rest else (a, b) :: (x, v) :: rest)
    else if a = x then (if b = Memory.unlisted then rest else (a, b) :: rest)
    else (x, v) :: Memory.writeByte rest a b

/-- A 32-bit word, least significant byte at the lowest address (20_memory.md R87). -/
def Memory.readWord (m : Memory) (a : Nat) : BitVec 32 :=
  m.readByte (a + 3) ++ m.readByte (a + 2) ++ m.readByte (a + 1) ++ m.readByte a

/-- Store a 32-bit word, least significant byte at the lowest address (20_memory.md R87). -/
def Memory.writeWord (m : Memory) (a : Nat) (v : BitVec 32) : Memory :=
  (((m.writeByte a (v.extractLsb' 0 8)).writeByte (a + 1) (v.extractLsb' 8 8)).writeByte (a + 2)
    (v.extractLsb' 16 8)).writeByte (a + 3) (v.extractLsb' 24 8)

/-- The window address of `DL[i]` (20_memory.md R85). -/
def dlAddr (i : Nat) : Nat := 0x1000 + 4 * i

/-- The window address of `NT[j]` (20_memory.md R85). -/
def ntAddr (j : Nat) : Nat := 0x2000 + 4 * j

/-- The delay-line slot an index selects: `i & 1023` (20_memory.md R98). -/
def dlSlot (i : I32) : Nat := (i &&& 1023#32).toNat

/-- `DLWrite(i, v)` (20_memory.md R98). -/
def dlWrite (m : Memory) (i : I32) (v : F32) : Memory := m.writeWord (dlAddr (dlSlot i)) v

/-- `DLRead(i)` (20_memory.md R98). -/
def dlRead (m : Memory) (i : I32) : F32 := m.readWord (dlAddr (dlSlot i))

/-- `NTWrite(j, v)`, for `j` in 0..31 (20_memory.md R98). -/
def ntWrite (m : Memory) (j : Nat) (v : F32) : Memory := m.writeWord (ntAddr j) v

/-- `NTRead(j)`, for `j` in 0..31 (20_memory.md R98); no rule reads another slot, whose value is free (log 11). -/
def ntRead (m : Memory) (j : Nat) : F32 := if j < noiseLen then m.readWord (ntAddr j) else Config.ntOpen j

/-! ## The random-source port (60_exceptions.md R333) -/

/-- A draw lies in [-1, 1] and is no NaN (60_exceptions.md R333). -/
def inUnit (v : F32) : Bool := decide (binary32.mag v.toNat ≤ 0x3F800000)

/-- A raw value of the free algorithm as a draw: any value in [-1, 1] is its own draw, and any other pattern is
brought below 1 by clearing two exponent bits, so that the draws range over exactly the f32 values in [-1, 1]
(log 6). -/
def unitDraw (raw : F32) : F32 := if inUnit raw then raw else raw &&& 0xBF7FFFFF#32

/-- The value of the next draw: after a reseed a function of its seed and of the draws since (60_exceptions.md R333
item 4), and otherwise ambient, a free value of its own for each draw, in no relation to an earlier run
(93_implementation_defined.md U7; log 6). -/
def drawValue (P : Params) (r : RngSource) : F32 :=
  unitDraw (match r.seed with
    | some seed => P.rng seed r.draws
    | none => P.ambient r.total)

/-- The source after `n` more draws. -/
def RngSource.advance (r : RngSource) (n : Nat) : RngSource := { r with draws := r.draws + n, total := r.total + n }

/-- The source after `RngReseed(seed)`. -/
def RngSource.reseed (r : RngSource) (seed : I32) : RngSource := { r with seed := some seed, draws := 0 }

/-- The source of a run with seed 0: no transaction is made, and the draws that follow are ambient, whatever governed
those before (41_setup.md R180; 60_exceptions.md R333 item 5; 93_implementation_defined.md U7; log 6). -/
def RngSource.ambient (r : RngSource) : RngSource := { r with seed := none, draws := 0 }

/-- `RngReseed(seed)`. -/
def rngReseed (seed : I32) (s : State) : State := s.setRng (s.rng.reseed seed)

/-- The draws from here on are ambient. -/
def rngAmbient (s : State) : State := s.setRng s.rng.ambient

/-- `NT[j] <- RngDraw()`: one draw, stored. -/
def drawInto (P : Params) (j : Nat) (s : State) : State :=
  (s.setMem (ntWrite s.mem j (drawValue P s.rng))).setRng (s.rng.advance 1)

/-- `n` draws into `NT[j]`, `NT[j + 1]`, … in that order. -/
def drawRange (P : Params) : Nat → Nat → State → State
  | 0, _, s => s
  | n + 1, j, s => drawRange P n (j + 1) (drawInto P j s)

/-- `for j in 0..31: NT[j] <- RngDraw()` (41_setup.md R192; 45_oscillator.md R262). -/
def fillNoise (P : Params) (s : State) : State := drawRange P noiseLen 0 s

/-! ## The output port (48_output.md R302) -/

/-- `Emit(index, value)`. -/
def emit (index : I32) (value : F32) (s : State) : State :=
  { s with emitted := { index := index, value := value } :: s.emitted }

/-! ## Errors and terminations -/

/-- A refused command: `STATUS.CMDERR <- 1` and nothing else (40_control.md R147). -/
def refuseCommand (s : State) : State := { s with cmdErr := true }

/-- A refused PRM write: `STATUS.WERR <- 1` and nothing else (10_state.md R33). -/
def refusePrmWrite (s : State) : State := { s with wErr := true }

/-- ENV termination (40_control.md R153): `S.gen <- 0`, `STATUS.TERM_ENV <- 1`. -/
def terminateEnv (s : State) : State := { s with syn := { s.syn with gen := false }, termEnv := true }

/-- FLOOR termination (40_control.md R153): `S.gen <- 0`, `STATUS.TERM_FLOOR <- 1`. -/
def terminateFloor (s : State) : State := { s with syn := { s.syn with gen := false }, termFloor := true }

/-- CAP termination (40_control.md R153): `S.gen <- 0`, `STATUS.TERM_CAP <- 1`. -/
def terminateCap (s : State) : State := { s with syn := { s.syn with gen := false }, termCap := true }

/-! ## Power-on reset (70_reset_and_hazards.md R350, R351) -/

/-- Reset asserted between transitions: every register and memory of the block at its reset value. What stands
outside the block stays: the samples already emitted, the random source, the host's pending inputs and its last read
value, and the model's own schedule (log 19). -/
def powerOnReset (s : State) : State :=
  { State.reset with
    emitted := s.emitted
    rng := s.rng
    inputs := s.inputs
    hostRdata := s.hostRdata
    hostTurn := s.hostTurn
    tick := s.tick }

end Sys2Proof.Machine
end

