-- ==== Sys2Proof/Machine/Envelope.lean ====
section
/-! DEFINITION. The duty slide and the envelope state machine: PS_DUTY and PS_ENV (43_duty_envelope.md R230,
R231). -/

namespace Sys2Proof.Machine

/-- PS_DUTY (R230). -/
def psDuty (P : Params) (s : State) : State :=
  s.setSyn { s.syn with squareDuty := clamp32 0#32 P.K.dutyMax (add32 P s.syn.squareDuty s.syn.squareSlide) }

/-- `S.envLen[stage]`; no rule reads it for a stage outside 0..2, where it is free (log 12). -/
def Synth.envLen (y : Synth) (stage : I32) : I32 :=
  if stage = 0#32 then y.envLen0
  else if stage = 1#32 then y.envLen1
  else if stage = 2#32 then y.envLen2
  else Config.envLenOpen stage

/-- `time / length` (R231). -/
def stageFraction (P : Params) (time length : I32) : F32 := div32 P (i2f32 time) (i2f32 length)

/-- The sustain volume `1 + q · 2 · punch` with `q = 1 - time / length`, in f64 (R231). -/
def sustainVolume (P : Params) (time length : I32) (punch : F32) : F32 :=
  cvt32 P (add64 P one64 (mul64 P (mul64 P (f64 P (sub32 P one32 (stageFraction P time length))) two64) (f64 P punch)))

/-- The volume of the stage the envelope is in; in the terminal stage it keeps its value (R231). -/
def Synth.volume (P : Params) (punch : F32) (y : Synth) : F32 :=
  if y.envStage = 0#32 then stageFraction P y.envTime y.envLen0
  else if y.envStage = 1#32 then sustainVolume P y.envTime y.envLen1 punch
  else if y.envStage = 2#32 then sub32 P one32 (stageFraction P y.envTime y.envLen2)
  else y.envVol

/-- The envelope's time and stage after one sample, before the volume (R231). -/
def envAdvance (s : State) : State :=
  let t := s.syn.envTime + 1#32
  if (s.syn.envLen s.syn.envStage).slt t then
    let stage := s.syn.envStage + 1#32
    let s' := s.setSyn { s.syn with envTime := 0#32, envStage := stage }
    if stage = 3#32 then terminateEnv s' else s'
  else s.setSyn { s.syn with envTime := t }

/-- PS_ENV (R231). -/
def psEnv (P : Params) (s : State) : State :=
  let s' := envAdvance s
  s'.setSyn { s'.syn with envVol := s'.syn.volume P s.prm.sustainPunch }

/-- The meaning of PS_DUTY. -/
def execPsDuty (s : State) : Host.Outcome State Fault Refusal := .next (psDuty specParams s)

/-- The meaning of PS_ENV. -/
def execPsEnv (s : State) : Host.Outcome State Fault Refusal := .next (psEnv specParams s)

end Sys2Proof.Machine
end

