-- ==== Sys2Proof/Machine/Filters.lean ====
section
/-! DEFINITION. The low-pass section and the high-pass leaky integrator: SS_LPF and SS_HPF (46_filters.md R280,
R281). -/

namespace Sys2Proof.Machine

/-- The velocity after both updates (R280): `d + (sample - p) · w`, then damped by `d - d · damping`. -/
def lpfVelocity (P : Params) (sample : F32) (y : Synth) (w : F32) : F32 :=
  let d := add32 P y.fltdp (mul32 P (sub32 P sample y.fltp) w)
  sub32 P d (mul32 P d y.fltdmp)

/-- The low-pass registers after one sub-sample (R280): bandwidth sweep and clamp, then the integration, or the bypass
when lpfCutoff is exactly 1.0f. -/
def Synth.lowPass (P : Params) (p : Prm) (sample : F32) (y : Synth) : Synth :=
  let w := clamp32 0#32 P.K.lpwMax (mul32 P y.fltw y.fltwd)
  if eq32 p.lpfCutoff one32 then
    { y with fltw := w, fltdp := 0#32, fltp := add32 P sample 0#32 }
  else
    let d := lpfVelocity P sample y w
    { y with fltw := w, fltdp := d, fltp := add32 P y.fltp d }

/-- SS_LPF (R280): `pp` is the position before this sub-sample's update. -/
def ssLpf (P : Params) (s : State) : State :=
  (s.setSyn (s.syn.lowPass P s.prm s.seq.sample)).setSeq { s.seq with pp := s.syn.fltp }

/-- The high-pass output after one sub-sample (R281): the change of the low-pass output is added, then a fraction
`flthp` leaks. -/
def hpfOutput (P : Params) (y : Synth) (pp : F32) : F32 :=
  let h := add32 P y.fltphp (sub32 P y.fltp pp)
  sub32 P h (mul32 P h y.flthp)

/-- SS_HPF (R281). -/
def ssHpf (P : Params) (s : State) : State :=
  (s.setSyn { s.syn with fltphp := hpfOutput P s.syn s.seq.pp }).setSample (hpfOutput P s.syn s.seq.pp)

/-- The meaning of SS_LPF. -/
def execSsLpf (s : State) : Host.Outcome State Fault Refusal := .next (ssLpf specParams s)

/-- The meaning of SS_HPF. -/
def execSsHpf (s : State) : Host.Outcome State Fault Refusal := .next (ssHpf specParams s)

end Sys2Proof.Machine
end

