-- ==== Sys2Proof/Machine/Setup.lean ====
section
/-! DEFINITION. The setup micro-operations SU_* (41_setup.md R180 to R192). A derivation is a function of the
parameter record and the Synthesis State it writes into; PS_REPEAT performs four of them again
(42_frequency_lfo.md R210). -/

namespace Sys2Proof.Machine

/-! ## Seed, clamps, clear -/

/-- SU_RESEED (R180): a nonzero seed reseeds the source; seed 0 makes no transaction, and the draws of the run are
ambient (93_implementation_defined.md U7). -/
def suReseed (s : State) : State :=
  if s.prm.randSeed ≠ 0#32 then rngReseed s.prm.randSeed s else rngAmbient s

/-- The two invariant clamps on the record, in the document's order (R181). -/
def Prm.clamp (p : Prm) : Prm :=
  let p := if lt32 p.startFrequency p.minFrequency then { p with minFrequency := p.startFrequency } else p
  if lt32 p.slide p.deltaSlide then { p with slide := p.deltaSlide } else p

/-- SU_CLAMP (R181). -/
def suClamp (s : State) : State := s.setPrm s.prm.clamp

/-- SU_CLEAR (R182): the Synthesis State, DL and NT zero (the empty memory reads +0.0 in every slot), `S.gen` 1, the
TERM bits, SAMPLE_COUNT and SAMPLE_OUT 0. -/
def suClear (s : State) : State :=
  { s with
    syn := Synth.zero true
    mem := []
    termEnv := false
    termFloor := false
    termCap := false
    sampleCount := 0#32
    sampleOut := 0#32 }

/-! ## Frequency derivations, re-performed at a repeat boundary -/

/-- `K.PER_NUM / (f² + K.PER_EPS)`, the square in f32 (R183). -/
def periodOf (P : Params) (f : F32) : F64 := div64 P P.K.perNum (add64 P (f64 P (mul32 P f f)) P.K.perEps)

/-- Period and maximum period (R183). -/
def Synth.derivePeriod (P : Params) (p : Prm) (y : Synth) : Synth :=
  { y with
    fperiod := periodOf P p.startFrequency
    period := trunc64 P (periodOf P p.startFrequency)
    fmaxperiod := periodOf P p.minFrequency }

/-- Slide rate (R184). -/
def Synth.deriveSlide (P : Params) (p : Prm) (y : Synth) : Synth :=
  { y with
    fslide := sub64 P one64 (mul64 P (cube64 P p.slide) P.K.slide)
    fdslide := neg64 (mul64 P (cube64 P p.deltaSlide) P.K.dslide) }

/-- `(1 - s)² · K.LIM_MUL + K.LIM_ADD`, truncated (R185, R191). -/
def limitOf (P : Params) (speed : F32) : I32 :=
  trunc64 P (add64 P (mul64 P (sq64 P (sub32 P one32 speed)) P.K.limMul) P.K.limAdd)

/-- The arpeggio factor (R185): a NaN amount takes the second branch. -/
def arpFactor (P : Params) (amount : F32) : F64 :=
  if ge32 amount 0#32 then sub64 P one64 (mul64 P (sq64 P amount) P.K.arpPos)
  else add64 P one64 (mul64 P (sq64 P amount) P.K.arpNeg)

/-- Arpeggio factor and limit; changeSpeed exactly 1.0f disables it (R185). -/
def Synth.deriveArp (P : Params) (p : Prm) (y : Synth) : Synth :=
  { y with
    arpMod := arpFactor P p.changeAmount
    arpLimit := if eq32 p.changeSpeed one32 then 0#32 else limitOf P p.changeSpeed
    arpTime := 0#32 }

/-- Duty and duty slide (R186). -/
def Synth.deriveDuty (P : Params) (p : Prm) (y : Synth) : Synth :=
  { y with
    squareDuty := sub32 P P.K.dutyBase (mul32 P p.squareDuty P.K.dutyMul)
    squareSlide := neg32 (mul32 P p.dutySweep P.K.dutySweep) }

/-- SU_PERIOD (R183). -/
def suPeriod (P : Params) (s : State) : State := s.setSyn (s.syn.derivePeriod P s.prm)

/-- SU_SLIDE (R184). -/
def suSlide (P : Params) (s : State) : State := s.setSyn (s.syn.deriveSlide P s.prm)

/-- SU_ARP (R185). -/
def suArp (P : Params) (s : State) : State := s.setSyn (s.syn.deriveArp P s.prm)

/-- SU_DUTY (R186). -/
def suDuty (P : Params) (s : State) : State := s.setSyn (s.syn.deriveDuty P s.prm)

/-! ## Filter, vibrato, envelope, phaser and repeat derivations -/

/-- The low-pass bandwidth `cutoff³ · K.LPW` (R187). -/
def bandwidthOf (P : Params) (cutoff : F32) : F32 := cvt32 P (mul64 P (cube64 P cutoff) (f64 P P.K.lpw))

/-- The low-pass damping before its cap (R187). -/
def dampingOf (P : Params) (resonance fltw : F32) : F32 :=
  cvt32 P (mul64 P (div64 P P.K.dmpNum (add64 P one64 (mul64 P (sq64 P resonance) P.K.dmpRes)))
    (f64 P (add32 P P.K.dmpAdd fltw)))

/-- The damping cap: a NaN passes it (R187). -/
def capDamping (P : Params) (d : F32) : F32 := if lt32 P.K.dmpMax d then P.K.dmpMax else d

/-- Low-pass and high-pass coefficients (R187). -/
def Synth.deriveFilter (P : Params) (p : Prm) (y : Synth) : Synth :=
  { y with
    fltw := bandwidthOf P p.lpfCutoff
    fltwd := add32 P one32 (mul32 P p.lpfCutoffSweep P.K.lpwd)
    fltdmp := capDamping P (dampingOf P p.lpfResonance (bandwidthOf P p.lpfCutoff))
    flthp := cvt32 P (mul64 P (sq64 P p.hpfCutoff) (f64 P P.K.hp))
    flthpd := cvt32 P (add64 P one64 (f64 P (mul32 P p.hpfCutoffSweep P.K.hpd))) }

/-- Vibrato speed and amplitude (R188). -/
def Synth.deriveVibrato (P : Params) (p : Prm) (y : Synth) : Synth :=
  { y with
    vibSpeed := cvt32 P (mul64 P (sq64 P p.vibratoSpeed) (f64 P P.K.vibSpd))
    vibAmp := mul32 P p.vibratoDepth P.K.vibAmp }

/-- A stage length, `time² · K.ENV` in f32, truncated (R189). -/
def stageLength (P : Params) (time : F32) : I32 := trunc32 P (mul32 P (mul32 P time time) P.K.env)

/-- Envelope stage lengths (R189). -/
def Synth.deriveEnvlen (P : Params) (p : Prm) (y : Synth) : Synth :=
  { y with
    envLen0 := stageLength P p.attackTime
    envLen1 := stageLength P p.sustainTime
    envLen2 := stageLength P p.decayTime }

/-- The sign-preserving square `±v² · scale` (R190): a value below 0 flips the sign, -0.0 does not. -/
def signedSquare (P : Params) (scale : F64) (v : F32) : F32 :=
  let m := cvt32 P (mul64 P (sq64 P v) scale)
  if lt32 v 0#32 then neg32 m else m

/-- Phaser base offset, sweep and tap (R190): the tap is not clamped here. -/
def Synth.derivePhaser (P : Params) (p : Prm) (y : Synth) : Synth :=
  { y with
    fphase := signedSquare P P.K.phOff p.phaserOffset
    fdphase := signedSquare P P.K.phSwp p.phaserSweep
    iphase := absI32 (trunc32 P (signedSquare P P.K.phOff p.phaserOffset)) }

/-- Repeat limit; repeatSpeed equal to 0.0f, of either sign, disables it (R191). -/
def Synth.deriveRepeat (P : Params) (p : Prm) (y : Synth) : Synth :=
  { y with repLimit := if eq32 p.repeatSpeed 0#32 then 0#32 else limitOf P p.repeatSpeed }

/-- SU_FILTER (R187). -/
def suFilter (P : Params) (s : State) : State := s.setSyn (s.syn.deriveFilter P s.prm)

/-- SU_VIBRATO (R188). -/
def suVibrato (P : Params) (s : State) : State := s.setSyn (s.syn.deriveVibrato P s.prm)

/-- SU_ENVLEN (R189). -/
def suEnvlen (P : Params) (s : State) : State := s.setSyn (s.syn.deriveEnvlen P s.prm)

/-- SU_PHASER (R190). -/
def suPhaser (P : Params) (s : State) : State := s.setSyn (s.syn.derivePhaser P s.prm)

/-- SU_REPEAT (R191). -/
def suRepeat (P : Params) (s : State) : State := s.setSyn (s.syn.deriveRepeat P s.prm)

/-- SU_NOISE (R192): 32 draws fill the noise table, for every waveform. -/
def suNoise (P : Params) (s : State) : State := fillNoise P s

/-! ## Meanings -/

/-- The meaning of SU_RESEED. -/
def execSuReseed (s : State) : Host.Outcome State Fault Refusal := .next (suReseed s)

/-- The meaning of SU_CLAMP. -/
def execSuClamp (s : State) : Host.Outcome State Fault Refusal := .next (suClamp s)

/-- The meaning of SU_CLEAR. -/
def execSuClear (s : State) : Host.Outcome State Fault Refusal := .next (suClear s)

/-- The meaning of SU_PERIOD. -/
def execSuPeriod (s : State) : Host.Outcome State Fault Refusal := .next (suPeriod specParams s)

/-- The meaning of SU_SLIDE. -/
def execSuSlide (s : State) : Host.Outcome State Fault Refusal := .next (suSlide specParams s)

/-- The meaning of SU_ARP. -/
def execSuArp (s : State) : Host.Outcome State Fault Refusal := .next (suArp specParams s)

/-- The meaning of SU_DUTY. -/
def execSuDuty (s : State) : Host.Outcome State Fault Refusal := .next (suDuty specParams s)

/-- The meaning of SU_FILTER. -/
def execSuFilter (s : State) : Host.Outcome State Fault Refusal := .next (suFilter specParams s)

/-- The meaning of SU_VIBRATO. -/
def execSuVibrato (s : State) : Host.Outcome State Fault Refusal := .next (suVibrato specParams s)

/-- The meaning of SU_ENVLEN. -/
def execSuEnvlen (s : State) : Host.Outcome State Fault Refusal := .next (suEnvlen specParams s)

/-- The meaning of SU_PHASER. -/
def execSuPhaser (s : State) : Host.Outcome State Fault Refusal := .next (suPhaser specParams s)

/-- The meaning of SU_REPEAT. -/
def execSuRepeat (s : State) : Host.Outcome State Fault Refusal := .next (suRepeat specParams s)

/-- The meaning of SU_NOISE. -/
def execSuNoise (s : State) : Host.Outcome State Fault Refusal := .next (suNoise specParams s)

end Sys2Proof.Machine
end

