-- ==== Sys2Proof/Machine/Frequency.lean ====
section
/-! DEFINITION. The frequency path, arpeggio and vibrato LFO: PS_REPEAT to PS_PERIOD (42_frequency_lfo.md R210 to
R214). -/

namespace Sys2Proof.Machine

/-- The four re-derivations of a repeat boundary, from PRM as SU_CLAMP left it (R210). -/
def Synth.rederive (P : Params) (p : Prm) (y : Synth) : Synth :=
  (((y.derivePeriod P p).deriveSlide P p).deriveDuty P p).deriveArp P p

/-- A nonzero limit that a counter has reached, by signed compare (R210, R211). -/
def limitReached (limit time : I32) : Bool := limit != 0#32 && limit.sle time

/-- PS_REPEAT (R210). -/
def psRepeat (P : Params) (s : State) : State :=
  let t := s.syn.repTime + 1#32
  if limitReached s.syn.repLimit t then s.setSyn ({ s.syn with repTime := 0#32 }.rederive P s.prm)
  else s.setSyn { s.syn with repTime := t }

/-- PS_ARP (R211). -/
def psArp (P : Params) (s : State) : State :=
  let t := s.syn.arpTime + 1#32
  if limitReached s.syn.arpLimit t then
    s.setSyn { s.syn with arpTime := t, arpLimit := 0#32, fperiod := mul64 P s.syn.fperiod s.syn.arpMod }
  else s.setSyn { s.syn with arpTime := t }

/-- PS_SLIDE (R212): the floor clamps on a strict `>`, and terminates the run only if minFrequency is above 0. -/
def psSlide (P : Params) (s : State) : State :=
  let fslide := add64 P s.syn.fslide s.syn.fdslide
  let fperiod := mul64 P s.syn.fperiod fslide
  if lt64 s.syn.fmaxperiod fperiod then
    let s' := s.setSyn { s.syn with fslide := fslide, fperiod := s.syn.fmaxperiod }
    if lt32 0#32 s.prm.minFrequency then terminateFloor s' else s'
  else s.setSyn { s.syn with fslide := fslide, fperiod := fperiod }

/-- The modulated period `fperiod · (1 + SIN32(phase) · amplitude)` (R213). -/
def vibratoPeriod (P : Params) (fperiod : F64) (phase amp : F32) : F32 :=
  cvt32 P (mul64 P fperiod (add64 P one64 (f64 P (mul32 P (P.sin32 phase) amp))))

/-- PS_VIBRATO (R213): with the LFO off the effective period is `fperiod` rounded to f32. -/
def psVibrato (P : Params) (s : State) : State :=
  if lt32 0#32 s.syn.vibAmp then
    let phase := add32 P s.syn.vibPhase s.syn.vibSpeed
    (s.setSyn { s.syn with vibPhase := phase }).setSeq
      { s.seq with rfperiod := vibratoPeriod P s.syn.fperiod phase s.syn.vibAmp }
  else s.setSeq { s.seq with rfperiod := cvt32 P s.syn.fperiod }

/-- The integer period with its floor (R214). -/
def floorPeriod (P : Params) (v : I32) : I32 := if v.slt P.K.minPeriod then P.K.minPeriod else v

/-- PS_PERIOD (R214). -/
def psPeriod (P : Params) (s : State) : State :=
  s.setSyn { s.syn with period := floorPeriod P (trunc32 P s.seq.rfperiod) }

/-- The meaning of PS_REPEAT. -/
def execPsRepeat (s : State) : Host.Outcome State Fault Refusal := .next (psRepeat specParams s)

/-- The meaning of PS_ARP. -/
def execPsArp (s : State) : Host.Outcome State Fault Refusal := .next (psArp specParams s)

/-- The meaning of PS_SLIDE. -/
def execPsSlide (s : State) : Host.Outcome State Fault Refusal := .next (psSlide specParams s)

/-- The meaning of PS_VIBRATO. -/
def execPsVibrato (s : State) : Host.Outcome State Fault Refusal := .next (psVibrato specParams s)

/-- The meaning of PS_PERIOD. -/
def execPsPeriod (s : State) : Host.Outcome State Fault Refusal := .next (psPeriod specParams s)

end Sys2Proof.Machine
end

