-- ==== Sys2Proof/Machine/Oscillator.lean ====
section
/-! DEFINITION. The phase accumulator and the waveform lookup: SS_PHASE, SS_WAVE and its cases WAVE_*
(45_oscillator.md R260 to R267; 00_scope.md R24). -/

namespace Sys2Proof.Machine

/-- SS_PHASE (R260): the wrap is a modulo; a wrap of the noise waveform refills the noise table (R262). -/
def ssPhase (P : Params) (s : State) : State :=
  let phase := s.syn.phase + 1#32
  if s.syn.period.sle phase then
    let s' := s.setSyn { s.syn with phase := modI32 phase s.syn.period }
    if s.prm.waveType = 3#32 then fillNoise P s' else s'
  else s.setSyn { s.syn with phase := phase }

/-- The phase fraction `phase / period` (R263). -/
def phaseFraction (P : Params) (y : Synth) : F32 := div32 P (i2f32 y.phase) (i2f32 y.period)

/-- SQUARE (R264). -/
def squareWave (P : Params) (duty fp : F32) : F32 := if lt32 fp duty then P.K.sq else neg32 P.K.sq

/-- SAW (R266). -/
def sawWave (P : Params) (fp : F32) : F32 := sub32 P one32 (mul32 P fp two32)

/-- SINE (R267). -/
def sineWave (P : Params) (fp : F32) : F32 := P.sin32 (mul32 P (mul32 P fp two32) pi32)

/-- The noise index `(phase · 32) div period`, exact (R265); free where 00_scope.md R12 gives no quotient (log 10). -/
def noiseIndex (phase period : I32) : Nat :=
  if !phase.slt 0#32 && (0#32).slt period then phase.toNat * 32 / period.toNat else Config.divOpen phase period

/-- NOISE (R265). -/
def noiseWave (s : State) : F32 := ntRead s.mem (noiseIndex s.syn.phase s.syn.period)

/-- The square case: `sample <- SQUARE(fp)` (R263, R264). -/
def waveSquare (P : Params) (s : State) : State := s.setSample (squareWave P s.syn.squareDuty s.seq.fp)

/-- The sawtooth case: `sample <- SAW(fp)` (R263, R266). -/
def waveSawtooth (P : Params) (s : State) : State := s.setSample (sawWave P s.seq.fp)

/-- The sine case: `sample <- SINE(fp)` (R263, R267). -/
def waveSine (P : Params) (s : State) : State := s.setSample (sineWave P s.seq.fp)

/-- The noise case: `sample <- NOISE()` (R263, R265). -/
def waveNoise (s : State) : State := s.setSample (noiseWave s)

/-- Any other selector: `sample <- +0.0f` (R263; 00_scope.md R24). -/
def waveOther (s : State) : State := s.setSample 0#32

/-- SS_WAVE (R263): the phase fraction, then the case of PRM.waveType. -/
def ssWave (P : Params) (s : State) : State :=
  let s' := s.setSeq { s.seq with fp := phaseFraction P s.syn }
  match s.prm.waveType.toNat with
  | 0 => waveSquare P s'
  | 1 => waveSawtooth P s'
  | 2 => waveSine P s'
  | 3 => waveNoise s'
  | _ => waveOther s'

/-- The meaning of SS_PHASE. -/
def execSsPhase (s : State) : Host.Outcome State Fault Refusal := .next (ssPhase specParams s)

/-- The meaning of SS_WAVE. -/
def execSsWave (s : State) : Host.Outcome State Fault Refusal := .next (ssWave specParams s)

/-- The meaning of WAVE_SQUARE: the case alone, on the phase fraction SS_WAVE has computed (log 22). -/
def execWaveSquare (s : State) : Host.Outcome State Fault Refusal := .next (waveSquare specParams s)

/-- The meaning of WAVE_SAWTOOTH (log 22). -/
def execWaveSawtooth (s : State) : Host.Outcome State Fault Refusal := .next (waveSawtooth specParams s)

/-- The meaning of WAVE_SINE (log 22). -/
def execWaveSine (s : State) : Host.Outcome State Fault Refusal := .next (waveSine specParams s)

/-- The meaning of WAVE_NOISE (log 22). -/
def execWaveNoise (s : State) : Host.Outcome State Fault Refusal := .next (waveNoise s)

/-- The meaning of WAVE_OTHER (log 22). -/
def execWaveOther (s : State) : Host.Outcome State Fault Refusal := .next (waveOther s)

end Sys2Proof.Machine
end

