-- ==== Sys2Proof/Machine/Output.lean ====
section
/-! DEFINITION. Accumulation and sample output: PS_SSCLR, SS_ACC and PO_OUT (48_output.md R300, R303, R301). -/

namespace Sys2Proof.Machine

/-- PS_SSCLR (R300). -/
def psSsclr (s : State) : State := s.setSsample 0#32

/-- SS_ACC (R303). -/
def ssAcc (P : Params) (s : State) : State :=
  s.setSsample (add32 P s.seq.ssample (mul32 P s.seq.sample s.syn.envVol))

/-- The output clamp to [-1, 1], the high test first (R301): a NaN passes. -/
def clampOut (v : F32) : F32 :=
  let v := if lt32 one32 v then one32 else v
  if lt32 v negOne32 then negOne32 else v

/-- The output value: averaged, scaled and clamped (R301). -/
def outputValue (P : Params) (ssample : F32) : F32 :=
  clampOut (mul32 P (div32 P ssample eight32) P.K.outScale)

/-- Emit a value and count it; reaching CAPACITY terminates the run (R301). -/
def emitSample (v : F32) (s : State) : State :=
  let s' := { emit s.sampleCount v s with sampleOut := v, sampleCount := s.sampleCount + 1#32 }
  if s.sampleCount + 1#32 = capacity then terminateCap s' else s'

/-- PO_OUT (R301). -/
def poOut (P : Params) (s : State) : State :=
  emitSample (outputValue P s.seq.ssample) (s.setSsample (outputValue P s.seq.ssample))

/-- The meaning of PS_SSCLR. -/
def execPsSsclr (s : State) : Host.Outcome State Fault Refusal := .next (psSsclr s)

/-- The meaning of SS_ACC. -/
def execSsAcc (s : State) : Host.Outcome State Fault Refusal := .next (ssAcc specParams s)

/-- The meaning of PO_OUT. -/
def execPoOut (s : State) : Host.Outcome State Fault Refusal := .next (poOut specParams s)

end Sys2Proof.Machine
end

