-- ==== Sys2Proof/Machine/PhaserDelay.lean ====
section
/-! DEFINITION. The phaser's circular delay line: SS_PHASER (47_phaser_delay.md R290). -/

namespace Sys2Proof.Machine

/-- The tapped index `(ipp - tap + 1024) AND 1023`, in wrapping `i32` arithmetic (R290). -/
def tapIndex (ipp tap : I32) : I32 := (ipp - tap + 1024#32) &&& 1023#32

/-- SS_PHASER (R290): the sample is written before the tap is read. -/
def ssPhaser (P : Params) (s : State) : State :=
  let m := dlWrite s.mem (s.syn.ipp &&& 1023#32) s.seq.sample
  ((s.setMem m).setSyn { s.syn with ipp := (s.syn.ipp + 1#32) &&& 1023#32 }).setSample
    (add32 P s.seq.sample (dlRead m (tapIndex s.syn.ipp s.syn.iphase)))

/-- The meaning of SS_PHASER. -/
def execSsPhaser (s : State) : Host.Outcome State Fault Refusal := .next (ssPhaser specParams s)

end Sys2Proof.Machine
end

