-- ==== Sys2Proof/Machine/Sweep.lean ====
section
/-! DEFINITION. The phaser tap sweep and the high-pass coefficient sweep: PS_PHASER_TAP and PS_HP_SWEEP
(44_phaser_tap_hp_sweep.md R250, R251). -/

namespace Sys2Proof.Machine

/-- The tap of a phaser offset: `|trunc(fphase)|`, clamped above only (R250). -/
def tapOf (P : Params) (fphase : F32) : I32 :=
  let t := absI32 (trunc32 P fphase)
  if P.K.tapMax.slt t then P.K.tapMax else t

/-- PS_PHASER_TAP (R250). -/
def psPhaserTap (P : Params) (s : State) : State :=
  let fphase := add32 P s.syn.fphase s.syn.fdphase
  s.setSyn { s.syn with fphase := fphase, iphase := tapOf P fphase }

/-- The condition that enables the high-pass sweep (R251): `!=` is true on a NaN. -/
def hpGate (P : Params) (s : State) : Bool :=
  match P.hpSweepGate with
  | .factorNonzero => !eq32 s.syn.flthpd 0#32
  | .paramNonzero => !eq32 s.prm.hpfCutoffSweep 0#32

/-- PS_HP_SWEEP (R251). -/
def psHpSweep (P : Params) (s : State) : State :=
  if hpGate P s then
    s.setSyn { s.syn with flthp := clamp32 P.K.hpMin P.K.hpMax (mul32 P s.syn.flthp s.syn.flthpd) }
  else s

/-- The meaning of PS_PHASER_TAP. -/
def execPsPhaserTap (s : State) : Host.Outcome State Fault Refusal := .next (psPhaserTap specParams s)

/-- The meaning of PS_HP_SWEEP. -/
def execPsHpSweep (s : State) : Host.Outcome State Fault Refusal := .next (psHpSweep specParams s)

end Sys2Proof.Machine
end

