-- ==== Sys2Proof/Machine/Sequencer.lean ====
section
/-! DEFINITION. The fixed microprogram (40_control.md R151): its sequences of micro-operations, each with the id `upc`
holds while it is performed (30_encoding.md R120), performed whole as one transition (10_state.md R49), and the
successor of one micro-operation in them. -/

namespace Sys2Proof.Machine

/-- A micro-operation of a sequence: its id and what it does. -/
abbrev MicroOp := BitVec 8 × (State → State)

/-- SETUP_SEQ (R151). -/
def setupSeq (P : Params) : List MicroOp :=
  [(0x10#8, suReseed), (0x11#8, suClamp), (0x12#8, suClear), (0x13#8, suPeriod P), (0x14#8, suSlide P),
    (0x15#8, suArp P), (0x16#8, suDuty P), (0x17#8, suFilter P), (0x18#8, suVibrato P), (0x19#8, suEnvlen P),
    (0x1A#8, suPhaser P), (0x1B#8, suRepeat P), (0x1C#8, suNoise P)]

/-- Steps 1 to 9 and the accumulator clear of OUTER_SAMPLE (R151). -/
def sampleSeq (P : Params) : List MicroOp :=
  [(0x20#8, psRepeat P), (0x21#8, psArp P), (0x22#8, psSlide P), (0x23#8, psVibrato P), (0x24#8, psPeriod P),
    (0x25#8, psDuty P), (0x26#8, psEnv P), (0x27#8, psPhaserTap P), (0x28#8, psHpSweep P), (0x29#8, psSsclr)]

/-- The body of a sub-sample (R151). -/
def subSampleSeq (P : Params) : List MicroOp :=
  [(0x30#8, ssPhase P), (0x31#8, ssWave P), (0x32#8, ssLpf P), (0x33#8, ssHpf P), (0x34#8, ssPhaser P),
    (0x35#8, ssAcc P)]

/-- Step 11 (R151). -/
def outputSeq (P : Params) : List MicroOp := [(0x40#8, poOut P)]

/-- `for u in seq: upc <- u; perform u` (40_control.md R142). -/
def performSeq : List MicroOp → State → State
  | [], s => s
  | (u, f) :: rest, s => performSeq rest (f (s.setUpc u))

/-- The sub-samples `k, k + 1, …` of an outer sample, `n` of them, with `si` their counter (R151). -/
def subSamples (P : Params) : Nat → Nat → State → State
  | 0, _, s => s
  | n + 1, k, s => subSamples P n (k + 1) (performSeq (subSampleSeq P) (s.setSi (BitVec.ofNat 3 k)))

/-- OUTER_SAMPLE (R151), with no conditional exit (R156). -/
def outerSample (P : Params) (s : State) : State :=
  performSeq (outputSeq P) (subSamples P supersample 0 (performSeq (sampleSeq P) s))

/-- The end of an outer sample: the run ends if `S.gen` is 0, and `upc` rests at IDLE (R143, R148, R152). The temporaries
keep the sample's last values until the next sample writes them, across SETUP and ABORT too: the model's choice, since
the spec leaves them any value between samples (93_implementation_defined.md U19; log 5, DESIGN CHOICE). -/
def endSample (s : State) : State :=
  (if s.syn.gen then s else s.setRun .done).setUpc 0x00#8

/-- The end of SETUP (R142). -/
def endSetup (s : State) : State := (s.setRun .ready).setUpc 0x00#8

/-- After the micro-operation in `upc` has been performed: the next one of its sequence (R151), or the end of the
sequence. `upc` 0x00 rests (R152). -/
def advance (s : State) : State :=
  match s.seq.upc.toNat with
  | 0x00 => s
  | 0x1C => endSetup s
  | 0x29 => (s.setSi 0#3).setUpc 0x30#8
  | 0x35 => if s.seq.si = 7#3 then s.setUpc 0x40#8 else (s.setSi (s.seq.si + 1#3)).setUpc 0x30#8
  | 0x40 => endSample s
  | _ => s.setUpc (s.seq.upc + 1#8)

end Sys2Proof.Machine
end

