-- ==== Sys2Proof/Machine/Commands.lean ====
section
/-! DEFINITION. The commands written to CTRL (40_control.md R141 to R147) and the resting micro-operation IDLE (R152).
Each command takes its state from the table of R140; "refused" is R147. -/

namespace Sys2Proof.Machine

/-- NOP (R141). -/
def cmdNop (s : State) : State := s

/-- SETUP (R142): refused while RUNNING. -/
def cmdSetup (P : Params) (s : State) : State :=
  match s.run with
  | .running => refuseCommand s
  | .idle => endSetup (performSeq (setupSeq P) s)
  | .ready => endSetup (performSeq (setupSeq P) s)
  | .done => endSetup (performSeq (setupSeq P) s)

/-- STEP (R143): one outer sample, accepted only in READY. -/
def cmdStep (P : Params) (s : State) : State :=
  match s.run with
  | .ready => endSample (outerSample P s)
  | .idle => refuseCommand s
  | .running => refuseCommand s
  | .done => refuseCommand s

/-- RUN (R144): accepted only in READY; engine transitions follow (R148). -/
def cmdRun (s : State) : State :=
  match s.run with
  | .ready => s.setRun .running
  | .idle => refuseCommand s
  | .running => refuseCommand s
  | .done => refuseCommand s

/-- ABORT (R145): accepted in every state; every other register keeps its value. -/
def cmdAbort (s : State) : State := (s.setRun .idle).setUpc 0x00#8

/-- CLRERR (R146). -/
def cmdClrerr (s : State) : State := { s with cmdErr := false, wErr := false }

/-- The command `v[3:0]` of a word written to CTRL (30_encoding.md R114, R115; 40_control.md R147). -/
def command (P : Params) (v : BitVec 32) (s : State) : State :=
  match (v.extractLsb' 0 4).toNat with
  | 0 => cmdNop s
  | 1 => cmdSetup P s
  | 2 => cmdStep P s
  | 3 => cmdRun s
  | 4 => cmdAbort s
  | 5 => cmdClrerr s
  | _ => refuseCommand s

/-! ## Meanings -/

/-- The meaning of NOP. -/
def execNop (s : State) : Host.Outcome State Fault Refusal := .next (cmdNop s)

/-- The meaning of SETUP. -/
def execSetup (s : State) : Host.Outcome State Fault Refusal := .next (cmdSetup specParams s)

/-- The meaning of STEP. -/
def execStep (s : State) : Host.Outcome State Fault Refusal := .next (cmdStep specParams s)

/-- The meaning of RUN. -/
def execRun (s : State) : Host.Outcome State Fault Refusal := .next (cmdRun s)

/-- The meaning of ABORT. -/
def execAbort (s : State) : Host.Outcome State Fault Refusal := .next (cmdAbort s)

/-- The meaning of CLRERR. -/
def execClrerr (s : State) : Host.Outcome State Fault Refusal := .next (cmdClrerr s)

/-- The meaning of RESERVED_6: refused (30_encoding.md R116; R147). -/
def execReserved6 (s : State) : Host.Outcome State Fault Refusal := .next (refuseCommand s)

/-- The meaning of RESERVED_7: refused (30_encoding.md R116; R147). -/
def execReserved7 (s : State) : Host.Outcome State Fault Refusal := .next (refuseCommand s)

/-- The meaning of RESERVED_8: refused (30_encoding.md R116; R147). -/
def execReserved8 (s : State) : Host.Outcome State Fault Refusal := .next (refuseCommand s)

/-- The meaning of RESERVED_9: refused (30_encoding.md R116; R147). -/
def execReserved9 (s : State) : Host.Outcome State Fault Refusal := .next (refuseCommand s)

/-- The meaning of RESERVED_A: refused (30_encoding.md R116; R147). -/
def execReservedA (s : State) : Host.Outcome State Fault Refusal := .next (refuseCommand s)

/-- The meaning of RESERVED_B: refused (30_encoding.md R116; R147). -/
def execReservedB (s : State) : Host.Outcome State Fault Refusal := .next (refuseCommand s)

/-- The meaning of RESERVED_C: refused (30_encoding.md R116; R147). -/
def execReservedC (s : State) : Host.Outcome State Fault Refusal := .next (refuseCommand s)

/-- The meaning of RESERVED_D: refused (30_encoding.md R116; R147). -/
def execReservedD (s : State) : Host.Outcome State Fault Refusal := .next (refuseCommand s)

/-- The meaning of RESERVED_E: refused (30_encoding.md R116; R147). -/
def execReservedE (s : State) : Host.Outcome State Fault Refusal := .next (refuseCommand s)

/-- The meaning of RESERVED_F: refused (30_encoding.md R116; R147). -/
def execReservedF (s : State) : Host.Outcome State Fault Refusal := .next (refuseCommand s)

/-- The meaning of IDLE: it performs nothing (R152). -/
def execIdle (s : State) : Host.Outcome State Fault Refusal := .next s

end Sys2Proof.Machine
end

