-- ==== Sys2Proof/Machine/Flags.lean ====
section
/-! DEFINITION. The STATUS register (10_state.md R36): its fields' one home is State, and the word is computed. -/

namespace Sys2Proof.Machine

/-- The code of `STATUS.STATE` (10_state.md R36). -/
def RunState.code : RunState → BitVec 2
  | .idle => 0#2
  | .ready => 1#2
  | .running => 2#2
  | .done => 3#2

/-- The word a read of STATUS returns (10_state.md R36): bits 3, 7 and [31:10] read 0. -/
def statusWord (s : State) : BitVec 32 :=
  0#22 ++ BitVec.ofBool s.wErr ++ BitVec.ofBool s.cmdErr ++ 0#1 ++ BitVec.ofBool s.termCap ++ BitVec.ofBool s.termFloor
    ++ BitVec.ofBool s.termEnv ++ 0#1 ++ BitVec.ofBool s.syn.gen ++ s.run.code

end Sys2Proof.Machine
end

