-- ==== Sys2Proof/Machine/Operands.lean ====
section
/-! DEFINITION. The operands of host accesses: which register of the window an offset names (20_memory.md R81), what
a read of it returns and what a write of it stores. -/

namespace Sys2Proof.Machine

/-- The registers of the host window (20_memory.md R81). -/
inductive WindowReg where
  /-- PRM field `n`, 0 to 23 (10_state.md R31). -/
  | prm (n : Nat)
  | ctrl
  | status
  | sampleCount
  | sampleOut
  | rate
  | format
  | capacity
  | ifRev
  /-- Word `n` of the debug mirror, 0 to 39 (20_memory.md R84). -/
  | debug (n : Nat)
  | dl (i : Nat)
  | nt (j : Nat)
  | reserved
  deriving DecidableEq, Repr

/-- The register an aligned offset names (20_memory.md R81). -/
def windowReg (off : BitVec 16) : WindowReg :=
  let a := off.toNat
  if a < 0x060 then .prm (a / 4)
  else if a < 0x064 then .ctrl
  else if a < 0x068 then .status
  else if a < 0x06C then .sampleCount
  else if a < 0x070 then .sampleOut
  else if a < 0x074 then .rate
  else if a < 0x078 then .format
  else if a < 0x07C then .capacity
  else if a < 0x080 then .ifRev
  else if a < 0x100 then .reserved
  else if a < 0x1A0 then .debug ((a - 0x100) / 4)
  else if a < 0x1000 then .reserved
  else if a < 0x2000 then .dl ((a - 0x1000) / 4)
  else if a < 0x2080 then .nt ((a - 0x2000) / 4)
  else .reserved

/-- The 24 words of the parameter record in field order (10_state.md R31; 30_encoding.md R110). -/
def Prm.words (p : Prm) : List (BitVec 32) :=
  [p.randSeed, p.waveType, p.attackTime, p.sustainTime, p.sustainPunch, p.decayTime, p.startFrequency,
    p.minFrequency, p.slide, p.deltaSlide, p.vibratoDepth, p.vibratoSpeed, p.changeAmount, p.changeSpeed,
    p.squareDuty, p.dutySweep, p.repeatSpeed, p.phaserOffset, p.phaserSweep, p.lpfCutoff, p.lpfCutoffSweep,
    p.lpfResonance, p.hpfCutoff, p.hpfCutoffSweep]

/-- Store a word in field `n` of the record (10_state.md R30: all 32 bits as written). -/
def Prm.setWord (p : Prm) (n : Nat) (v : BitVec 32) : Prm :=
  match n with
  | 0 => { p with randSeed := v }
  | 1 => { p with waveType := v }
  | 2 => { p with attackTime := v }
  | 3 => { p with sustainTime := v }
  | 4 => { p with sustainPunch := v }
  | 5 => { p with decayTime := v }
  | 6 => { p with startFrequency := v }
  | 7 => { p with minFrequency := v }
  | 8 => { p with slide := v }
  | 9 => { p with deltaSlide := v }
  | 10 => { p with vibratoDepth := v }
  | 11 => { p with vibratoSpeed := v }
  | 12 => { p with changeAmount := v }
  | 13 => { p with changeSpeed := v }
  | 14 => { p with squareDuty := v }
  | 15 => { p with dutySweep := v }
  | 16 => { p with repeatSpeed := v }
  | 17 => { p with phaserOffset := v }
  | 18 => { p with phaserSweep := v }
  | 19 => { p with lpfCutoff := v }
  | 20 => { p with lpfCutoffSweep := v }
  | 21 => { p with lpfResonance := v }
  | 22 => { p with hpfCutoff := v }
  | 23 => { p with hpfCutoffSweep := v }
  | _ => p

/-- The record as 96 bytes: field `n` is bytes `4n` to `4n + 3`, least significant byte first (20_memory.md R87;
30_encoding.md R110). -/
def Prm.toBytes (p : Prm) : List Byte := p.words.flatMap bytes32

/-- Bytes as words, four at a time, least significant byte first; `none` unless they come in fours. -/
def wordsOfBytes : List Byte → Option (List (BitVec 32))
  | [] => some []
  | b0 :: b1 :: b2 :: b3 :: rest => (wordsOfBytes rest).map (le32 b0 b1 b2 b3 :: ·)
  | _ => none

/-- The words stored in the fields `n`, `n + 1`, … of a record. -/
def Prm.setWords (p : Prm) (n : Nat) : List (BitVec 32) → Prm
  | [] => p
  | w :: rest => (p.setWord n w).setWords (n + 1) rest

/-- The record that 96 bytes are (30_encoding.md R110, R111: every bit of every field counts, and no pattern is
refused); `none` for another number of bytes. -/
def Prm.ofBytes (bytes : List Byte) : Option Prm :=
  if bytes.length = 96 then (wordsOfBytes bytes).map (Prm.zero.setWords 0 ·) else none

/-- The 40 words of the debug mirror in offset order from 0x100; an f64 register is its low word and then its high
word (20_memory.md R84). -/
def Synth.words (y : Synth) : List (BitVec 32) :=
  [y.phase, y.period, y.fperiod.extractLsb' 0 32, y.fperiod.extractLsb' 32 32, y.fmaxperiod.extractLsb' 0 32,
    y.fmaxperiod.extractLsb' 32 32, y.fslide.extractLsb' 0 32, y.fslide.extractLsb' 32 32,
    y.fdslide.extractLsb' 0 32, y.fdslide.extractLsb' 32 32, y.arpMod.extractLsb' 0 32,
    y.arpMod.extractLsb' 32 32, y.squareDuty, y.squareSlide, y.envStage, y.envTime, y.envLen0, y.envLen1,
    y.envLen2, y.envVol, y.fphase, y.fdphase, y.iphase, y.ipp, y.fltp, y.fltdp, y.fltw, y.fltwd, y.fltdmp,
    y.fltphp, y.flthp, y.flthpd, y.vibPhase, y.vibSpeed, y.vibAmp, y.repTime, y.repLimit, y.arpTime,
    y.arpLimit, (BitVec.ofBool y.gen).setWidth 32]

/-- What a read of a window register returns (20_memory.md R82 to R86; 10_state.md R35 to R40). -/
def WindowReg.value (s : State) : WindowReg → BitVec 32
  | .prm n => s.prm.words.getD n 0#32
  | .ctrl => 0#32
  | .status => statusWord s
  | .sampleCount => s.sampleCount
  | .sampleOut => s.sampleOut
  | .rate => sampleRate
  | .format => formatWord
  | .capacity => Machine.capacity
  | .ifRev => Machine.ifRev
  | .debug n => s.syn.words.getD n 0#32
  | .dl i => s.mem.readWord (dlAddr i)
  | .nt j => s.mem.readWord (ntAddr j)
  | .reserved => 0#32

/-- The value of a host read (20_memory.md R81). -/
def hostValue (s : State) (off : BitVec 16) : BitVec 32 := (windowReg off).value s

/-- The host may write a parameter only while STATE is IDLE or DONE (10_state.md R33). -/
def RunState.prmWritable : RunState → Bool
  | .idle => true
  | .ready => false
  | .running => false
  | .done => true

/-- A host write of PRM field `n` (10_state.md R33; 20_memory.md R82). -/
def hostWritePrm (n : Nat) (v : BitVec 32) (s : State) : State :=
  if s.run.prmWritable then s.setPrm (s.prm.setWord n v) else refusePrmWrite s

end Sys2Proof.Machine
end

