-- ==== Sys2Proof/Machine/HostAccess.lean ====
section
/-! DEFINITION. The host's transactions WR and RD (30_encoding.md R127), whose effect is that of the offset
(20_memory.md R81 to R88). -/

namespace Sys2Proof.Machine

/-- A host write (20_memory.md R82, R83, R86): only PRM and CTRL take it; every other offset ignores it and sets no
status bit. -/
def hostWrite (P : Params) (off : BitVec 16) (data : BitVec 32) (s : State) : State :=
  match windowReg off with
  | .prm n => hostWritePrm n data s
  | .ctrl => command P data s
  | .status => s
  | .sampleCount => s
  | .sampleOut => s
  | .rate => s
  | .format => s
  | .capacity => s
  | .ifRev => s
  | .debug _ => s
  | .dl _ => s
  | .nt _ => s
  | .reserved => s

/-- A host read returns the register's value and has no side effect (20_memory.md R90). -/
def hostRead (off : BitVec 16) (s : State) : State := s.setRdata (hostValue s off)

/-- The meaning of WR; a misaligned offset has no step (20_memory.md R88). -/
def execWr (off : BitVec 16) (data : BitVec 32) (s : State) : Host.Outcome State Fault Refusal :=
  if alignedOffset off then .next (hostWrite specParams off data s) else .refused .misalignedAccess

/-- The meaning of RD; a misaligned offset has no step (20_memory.md R88). -/
def execRd (off : BitVec 16) (s : State) : Host.Outcome State Fault Refusal :=
  if alignedOffset off then .next (hostRead off s) else .refused .misalignedAccess

end Sys2Proof.Machine
end

