-- ==== Sys2Proof/Machine/Dispatch.lean ====
section
/-! DEFINITION. The dispatch: one arm per instruction, each one direct call of its meaning. -/

namespace Sys2Proof.Machine

/-- What an instruction does to a state. -/
def exec (i : Instr) (s : State) : Host.Outcome State Fault Refusal :=
  match i with
  | .nop => Sys2Proof.Machine.execNop s
  | .setup => Sys2Proof.Machine.execSetup s
  | .step => Sys2Proof.Machine.execStep s
  | .run => Sys2Proof.Machine.execRun s
  | .abort => Sys2Proof.Machine.execAbort s
  | .clrerr => Sys2Proof.Machine.execClrerr s
  | .reserved6 => Sys2Proof.Machine.execReserved6 s
  | .reserved7 => Sys2Proof.Machine.execReserved7 s
  | .reserved8 => Sys2Proof.Machine.execReserved8 s
  | .reserved9 => Sys2Proof.Machine.execReserved9 s
  | .reservedA => Sys2Proof.Machine.execReservedA s
  | .reservedB => Sys2Proof.Machine.execReservedB s
  | .reservedC => Sys2Proof.Machine.execReservedC s
  | .reservedD => Sys2Proof.Machine.execReservedD s
  | .reservedE => Sys2Proof.Machine.execReservedE s
  | .reservedF => Sys2Proof.Machine.execReservedF s
  | .idle => Sys2Proof.Machine.execIdle s
  | .suReseed => Sys2Proof.Machine.execSuReseed s
  | .suClamp => Sys2Proof.Machine.execSuClamp s
  | .suClear => Sys2Proof.Machine.execSuClear s
  | .suPeriod => Sys2Proof.Machine.execSuPeriod s
  | .suSlide => Sys2Proof.Machine.execSuSlide s
  | .suArp => Sys2Proof.Machine.execSuArp s
  | .suDuty => Sys2Proof.Machine.execSuDuty s
  | .suFilter => Sys2Proof.Machine.execSuFilter s
  | .suVibrato => Sys2Proof.Machine.execSuVibrato s
  | .suEnvlen => Sys2Proof.Machine.execSuEnvlen s
  | .suPhaser => Sys2Proof.Machine.execSuPhaser s
  | .suRepeat => Sys2Proof.Machine.execSuRepeat s
  | .suNoise => Sys2Proof.Machine.execSuNoise s
  | .psRepeat => Sys2Proof.Machine.execPsRepeat s
  | .psArp => Sys2Proof.Machine.execPsArp s
  | .psSlide => Sys2Proof.Machine.execPsSlide s
  | .psVibrato => Sys2Proof.Machine.execPsVibrato s
  | .psPeriod => Sys2Proof.Machine.execPsPeriod s
  | .psDuty => Sys2Proof.Machine.execPsDuty s
  | .psEnv => Sys2Proof.Machine.execPsEnv s
  | .psPhaserTap => Sys2Proof.Machine.execPsPhaserTap s
  | .psHpSweep => Sys2Proof.Machine.execPsHpSweep s
  | .psSsclr => Sys2Proof.Machine.execPsSsclr s
  | .ssPhase => Sys2Proof.Machine.execSsPhase s
  | .ssWave => Sys2Proof.Machine.execSsWave s
  | .ssLpf => Sys2Proof.Machine.execSsLpf s
  | .ssHpf => Sys2Proof.Machine.execSsHpf s
  | .ssPhaser => Sys2Proof.Machine.execSsPhaser s
  | .ssAcc => Sys2Proof.Machine.execSsAcc s
  | .poOut => Sys2Proof.Machine.execPoOut s
  | .wr off data => Sys2Proof.Machine.execWr off data s
  | .rd off => Sys2Proof.Machine.execRd off s
  | .waveSquare => Sys2Proof.Machine.execWaveSquare s
  | .waveSawtooth => Sys2Proof.Machine.execWaveSawtooth s
  | .waveSine => Sys2Proof.Machine.execWaveSine s
  | .waveNoise => Sys2Proof.Machine.execWaveNoise s
  | .waveOther _ => Sys2Proof.Machine.execWaveOther s

end Sys2Proof.Machine
end

