-- ==== Sys2Proof/Machine/Fetch.lean ====
section
/-! DEFINITION. Where the next instruction comes from. The block fetches none (10_state.md R49): the sequencer
performs the micro-operation in `upc`, and between transitions (`upc` 0x00) either the host's next pending access or,
while STATE is RUNNING, the first micro-operation of the next outer sample comes next, in any interleaving
(20_memory.md R92; log 1, 2). -/

namespace Sys2Proof.Machine

/-- What the machine does next. -/
inductive Fetched where
  /-- Execute an instruction at a state. -/
  | run (i : Instr) (s : State)
  /-- Take a state without executing an instruction (power-on reset). -/
  | hold (s : State)
  /-- There is no step. -/
  | stop (r : Refusal)

/-- Draw the next arbitration decision: which agent moves first at the next contested boundary is open (20_memory.md
R92) and free (log 2). -/
def arbitrate (s : State) : State := { s with hostTurn := Config.hostFirst s.tick, tick := s.tick + 1 }

/-- The host's next input (30_encoding.md R127; 20_memory.md R88; 70_reset_and_hazards.md R351). -/
def fetchInput (inp : HostInput) (s : State) : Fetched :=
  match inp with
  | .txn w =>
    match decodeTxn w with
    | .ok i => .run i s
    | .error _ => .stop .badTransaction
  | .access size write addr data =>
    if size = 4 then (if write then .run (.wr addr data) s else .run (.rd addr) s) else .stop .accessSize
  | .reset => .hold (powerOnReset s)

/-- An engine transition begins: `upc` is loaded with the first id of OUTER_SAMPLE (40_control.md R148, R151). -/
def startSample (s : State) : Fetched := .run .psRepeat (s.setUpc 0x20#8)

/-- Between transitions. With no input pending, the engine moves if STATE is RUNNING and the block rests otherwise
(R148, R152); with one pending, the host moves unless STATE is RUNNING and the engine's turn has been drawn. -/
def fetchBoundary (s : State) : Fetched :=
  match s.inputs with
  | [] => if s.run = .running then startSample (arbitrate s) else .run .idle s
  | inp :: rest =>
    if s.run = .running ∧ s.hostTurn = false then startSample (arbitrate s)
    else fetchInput inp (arbitrate { s with inputs := rest })

/-- What the machine does next. -/
def fetch (s : State) : Fetched :=
  if s.seq.upc = 0x00#8 then fetchBoundary s
  else
    match decodeUop s.seq.upc with
    | .ok i => .run i s
    | .error _ => .stop .unusedMicroOp

/-- After an instruction: the sequencer moves on (40_control.md R151); a stop stays a stop. -/
def complete (o : Host.Outcome State Fault Refusal) : Host.Outcome State Fault Refusal :=
  match o with
  | .next s => .next (advance s)
  | .fault r => .fault r
  | .refused r => .refused r

/-- A pending host access, next at the boundary. -/
def placeInput (inp : HostInput) (s : State) : State :=
  { s.setUpc 0x00#8 with inputs := inp :: s.inputs, hostTurn := true }

/-- A word of the opcode table placed where it is performed next: an id in `upc`; a transaction word first among the
host's pending inputs; a command word as the write of it to CTRL; a waveform selector in PRM.waveType with SS_WAVE in
`upc` (log 3, 14, 22). -/
def placeWord (f : Format) (w : Nat) (s : State) : State :=
  match f with
  | .uop => s.setUpc (BitVec.ofNat 8 w)
  | .txn => placeInput (.txn (BitVec.ofNat 64 w)) s
  | .cmdw => placeInput (.txn (txnWord true 0x060#16 (BitVec.ofNat 32 w))) s
  | .wavesel => (s.setPrm { s.prm with waveType := BitVec.ofNat 32 w }).setUpc 0x31#8

end Sys2Proof.Machine
end

