-- ==== Sys2Proof/Machine/Step.lean ====
section
/-! DEFINITION. One step of the machine, and the host's placing of a word where the next step takes it. -/

namespace Sys2Proof.Machine

/-- One step: what `fetch` gives is executed, and the sequencer moves on. -/
def step (s : State) : Host.Outcome State Fault Refusal :=
  match fetch s with
  | .run i s' => complete (exec i s')
  | .hold s' => .next s'
  | .stop r => .refused r

/-- The state whose very next step performs a word of the opcode table. -/
def State.withFetchWord (s : State) (nbits w : Nat) : State :=
  match tableFormat nbits w with
  | some f => placeWord f w s
  | none => s

end Sys2Proof.Machine
end

