-- ==== Sys2Proof/Safety.lean ====
section
/-! DEFINITION. What counts as a safe state of RFX-SYNTH, and the vocabulary the statements use: the real number a
pattern stands for and correct rounding (00_scope.md R13), where memory is unchanged, and the invariant of the
machine. -/

namespace Sys2Proof.Machine

/-! ## Real numbers -/

/-- A finite pattern of a format. -/
def Fmt.finite (F : Fmt) (pat : Nat) : Prop := F.mag pat < F.infMag

/-- The real number a finite pattern stands for. -/
def Fmt.value (F : Fmt) (pat : Nat) : ℚ := (signed (F.neg pat) (F.units (F.mag pat)) : ℚ) / 2 ^ F.unit

/-- Where rounding to nearest overflows: half a unit in the last place above the largest finite number. -/
def Fmt.overflowBound (F : Fmt) : ℚ := (2 ^ (F.frac + 2) - 1) * 2 ^ (2 ^ F.expo - 4) / 2 ^ F.unit

/-- `pat` is a finite pattern nearest to `q`, the one with an even last bit if two numbers are equally near. -/
def Fmt.nearest (F : Fmt) (q : ℚ) (pat : Nat) : Prop :=
  F.finite pat ∧ ∀ other, other < 2 * F.signBit → F.finite other →
    |F.value pat - q| ≤ |F.value other - q| ∧
      (|F.value pat - q| = |F.value other - q| → F.value other ≠ F.value pat → pat % 2 = 0)

/-- `pat` is `q` rounded to nearest, ties to even, with overflow to the infinity of `q`'s sign (00_scope.md R13). -/
def Fmt.rounds (F : Fmt) (q : ℚ) (pat : Nat) : Prop :=
  (|q| < F.overflowBound → F.nearest q pat) ∧
    (F.overflowBound ≤ |q| → F.mag pat = F.infMag ∧ F.neg pat = decide (q < 0))

/-- `pat` is a finite pattern nearest to the real number `r`, the one with an even last bit if two numbers are equally
near. -/
def Fmt.nearestReal (F : Fmt) (r : ℝ) (pat : Nat) : Prop :=
  F.finite pat ∧ ∀ other, other < 2 * F.signBit → F.finite other →
    |(F.value pat : ℝ) - r| ≤ |(F.value other : ℝ) - r| ∧
      (|(F.value pat : ℝ) - r| = |(F.value other : ℝ) - r| → F.value other ≠ F.value pat → pat % 2 = 0)

/-- The enclosure of the default sine of a finite number settles its rounding (log 7). -/
def sineSettled (x : F32) : Bool :=
  (sineRounded (binary32.neg x.toNat) (binary32.units (binary32.mag x.toNat))).isSome

/-- The extended real a pattern that is no NaN stands for. -/
def Fmt.extended (F : Fmt) (pat : Nat) : WithBot (WithTop ℚ) :=
  if F.mag pat = F.infMag then (if F.neg pat then ⊥ else ((⊤ : WithTop ℚ) : WithBot (WithTop ℚ)))
  else ((F.value pat : WithTop ℚ) : WithBot (WithTop ℚ))

/-- `r` is `trunc_i32` of a pattern: its value rounded toward zero where that fits an i32, and `oor` otherwise
(00_scope.md R16). -/
def Fmt.truncates (F : Fmt) (oor : I32) (pat : Nat) (r : I32) : Prop :=
  (¬ F.finite pat → r = oor) ∧
  (F.finite pat → 0 ≤ F.value pat →
    if ⌊F.value pat⌋ < 2 ^ 31 then r.toInt = ⌊F.value pat⌋ else r = oor) ∧
  (F.finite pat → F.value pat ≤ 0 →
    if -2 ^ 31 ≤ ⌈F.value pat⌉ then r.toInt = ⌈F.value pat⌉ else r = oor)

/-- The infinity of a sign. -/
def Fmt.inf (F : Fmt) (w : Nat) (neg : Bool) : BitVec w := BitVec.ofNat w (F.pack neg F.infMag)

/-- The zero of a sign. -/
def Fmt.zero (F : Fmt) (w : Nat) (neg : Bool) : BitVec w := BitVec.ofNat w (F.pack neg 0)

/-- What the four operations of a format give where rounding does not say it: on NaN and infinite operands, on a zero
divisor, and the sign of a product, of a quotient and of an exact zero (00_scope.md R13, R18; 60_exceptions.md R322).
`quiet` is the quiet bit of a NaN and `invalid` the NaN of an invalid operation. -/
structure Fmt.SpecialResults (F : Fmt) {w : Nat} (quiet invalid : BitVec w)
    (add sub mul div : BitVec w → BitVec w → BitVec w) : Prop where
  /-- A NaN operand is returned quieted, the first one if there are two. -/
  nan : ∀ op ∈ [add, sub, mul, div], ∀ a b : BitVec w,
    (F.isNan a.toNat = true → op a b = a ||| quiet) ∧
    (F.isNan a.toNat = false → F.isNan b.toNat = true → op a b = b ||| quiet)
  /-- Infinities of one sign add up, and those of two signs are invalid. -/
  add_inf_inf : ∀ s t : Bool, add (F.inf w s) (F.inf w t) = if s = t then F.inf w s else invalid
  /-- Infinities of two signs differ by the first, and those of one sign are invalid. -/
  sub_inf_inf : ∀ s t : Bool, sub (F.inf w s) (F.inf w t) = if s = t then invalid else F.inf w s
  mul_inf_inf : ∀ s t : Bool, mul (F.inf w s) (F.inf w t) = F.inf w (s ^^ t)
  div_inf_inf : ∀ s t : Bool, div (F.inf w s) (F.inf w t) = invalid
  /-- An infinity absorbs a finite number. -/
  add_inf_finite : ∀ (s : Bool) (x : BitVec w), F.finite x.toNat →
    add (F.inf w s) x = F.inf w s ∧ add x (F.inf w s) = F.inf w s
  sub_inf_finite : ∀ (s : Bool) (x : BitVec w), F.finite x.toNat →
    sub (F.inf w s) x = F.inf w s ∧ sub x (F.inf w s) = F.inf w (!s)
  /-- An infinity times a zero is invalid. -/
  mul_inf_finite : ∀ (s : Bool) (x : BitVec w), F.finite x.toNat →
    let r := if F.value x.toNat = 0 then invalid else F.inf w (s ^^ F.neg x.toNat)
    mul (F.inf w s) x = r ∧ mul x (F.inf w s) = r
  div_inf_finite : ∀ (s : Bool) (x : BitVec w), F.finite x.toNat →
    div (F.inf w s) x = F.inf w (s ^^ F.neg x.toNat) ∧ div x (F.inf w s) = F.zero w (s ^^ F.neg x.toNat)
  /-- Division by a zero is infinite, and 0/0 is invalid. -/
  div_by_zero : ∀ (s : Bool) (x : BitVec w), F.finite x.toNat →
    div x (F.zero w s) = if F.value x.toNat = 0 then invalid else F.inf w (s ^^ F.neg x.toNat)
  /-- An exact zero sum is `+0`, but for the sum of two negative zeros. -/
  add_zero_sign : ∀ a b : BitVec w, F.finite a.toNat → F.finite b.toNat → F.value a.toNat + F.value b.toNat = 0 →
    add a b = F.zero w (F.neg a.toNat && F.neg b.toNat)
  sub_zero_sign : ∀ a b : BitVec w, F.finite a.toNat → F.finite b.toNat → F.value a.toNat - F.value b.toNat = 0 →
    sub a b = F.zero w (F.neg a.toNat && !F.neg b.toNat)
  /-- The sign of a product and of a quotient, zero or not. -/
  mul_sign : ∀ a b : BitVec w, F.finite a.toNat → F.finite b.toNat →
    F.neg (mul a b).toNat = (F.neg a.toNat ^^ F.neg b.toNat)
  div_sign : ∀ a b : BitVec w, F.finite a.toNat → F.finite b.toNat → F.value b.toNat ≠ 0 →
    F.neg (div a b).toNat = (F.neg a.toNat ^^ F.neg b.toNat)

/-- A NaN, or a number whose magnitude is at most 1. -/
def unitOrNan (v : F32) : Prop := isNan32 v = true ∨ inUnit v = true

/-! ## Memory -/

/-- Every byte reads the same. -/
def sameMemory (s t : State) : Prop := ∀ a, t.mem.readByte a = s.mem.readByte a

/-- Every byte outside `[low, low + size)` reads the same. -/
def sameMemoryOutside (low size : Nat) (s t : State) : Prop :=
  ∀ a, a < low ∨ low + size ≤ a → t.mem.readByte a = s.mem.readByte a

/-- The address of a byte of DL or of NT (20_memory.md R81, R85). -/
def inMemory (a : Nat) : Prop := 0x1000 ≤ a ∧ a < 0x2000 ∨ 0x2000 ≤ a ∧ a < 0x2080

/-! ## The sequencer -/

/-- The ids of OUTER_SAMPLE (40_control.md R151). -/
def isSampleId (u : BitVec 8) : Bool :=
  (0x20#8).ule u && u.ule 0x29#8 || (0x30#8).ule u && u.ule 0x35#8 || u == 0x40#8

/-- Instructions executed one after another, up to the first that stops. -/
def execSeq : List Instr → State → Host.Outcome State Fault Refusal
  | [], s => .next s
  | i :: rest, s =>
    match exec i s with
    | .next t => execSeq rest t
    | .fault r => .fault r
    | .refused r => .refused r

/-- SETUP_SEQ (40_control.md R151). -/
def setupInstrs : List Instr :=
  [.suReseed, .suClamp, .suClear, .suPeriod, .suSlide, .suArp, .suDuty, .suFilter, .suVibrato, .suEnvlen, .suPhaser,
    .suRepeat, .suNoise]

/-- The body of one sub-sample (40_control.md R151). -/
def subSampleInstrs : List Instr := [.ssPhase, .ssWave, .ssLpf, .ssHpf, .ssPhaser, .ssAcc]

/-- OUTER_SAMPLE, all 59 micro-operations (40_control.md R151; 70_reset_and_hazards.md R371). -/
def sampleInstrs : List Instr :=
  [.psRepeat, .psArp, .psSlide, .psVibrato, .psPeriod, .psDuty, .psEnv, .psPhaserTap, .psHpSweep, .psSsclr]
    ++ (List.replicate supersample subSampleInstrs).flatten ++ [.poOut]

/-- The samples that SS_PHASER takes in turn, fed through the delay line at one tap. -/
def feedDelay (P : Params) : List F32 → State → State
  | [], s => s
  | v :: rest, s => feedDelay P rest (ssPhaser P (s.setSample v))

/-- `n` samples of the envelope state machine. -/
def envelopeSamples (P : Params) : Nat → State → State
  | 0, s => s
  | n + 1, s => envelopeSamples P n (psEnv P s)

/-- How many samples a stage of a length adds to a run: a length below 0 acts as 0 (43_duty_envelope.md R231). -/
def stageSamples (len : I32) : Nat := len.toInt.toNat

/-! ## The invariant -/

/-- The counters count samples of the run: at most `SAMPLE_COUNT`, and one more once this sample has counted. -/
def counted (counter : I32) (s : State) (before : BitVec 8) : Prop :=
  counter.toNat ≤ s.sampleCount.toNat + (if s.seq.upc.ule before then 0 else 1)

/-- What holds at reset and after every step. -/
structure Inv (s : State) : Prop where
  /-- The memory is in its canonical form. -/
  mem_wf : s.mem.wf = true
  /-- Only bytes of DL and NT are listed. -/
  mem_window : ∀ c ∈ s.mem, inMemory c.1
  /-- NT holds draws, or the +0.0 of reset (60_exceptions.md R333). -/
  noise_unit : ∀ j, j < noiseLen → inUnit (ntRead s.mem j) = true
  /-- SAMPLE_COUNT lies in 0..CAPACITY (10_state.md R38). -/
  count_le : s.sampleCount.toNat ≤ 441000
  /-- A run that goes on has not reached CAPACITY (40_control.md R154). -/
  count_lt : s.run = .ready ∨ s.run = .running → s.sampleCount.toNat < 441000
  /-- `upc` rests at IDLE, or the engine is in an outer sample (40_control.md R151, R152). -/
  upc_legal : s.seq.upc = 0x00#8 ∨ s.run = .running ∧ isSampleId s.seq.upc = true
  /-- `S.gen` is 1 in READY. -/
  ready_gen : s.run = .ready → s.syn.gen = true
  /-- `S.gen` is 1 in RUNNING between engine transitions (40_control.md R148). -/
  running_gen : s.run = .running → s.seq.upc = 0x00#8 → s.syn.gen = true
  /-- `S.gen` is 0 in DONE (40_control.md R150). -/
  done_gen : s.run = .done → s.syn.gen = false
  /-- A TERM bit clears `S.gen` (60_exceptions.md R323). -/
  gen_term : s.syn.gen = true → s.termEnv = false ∧ s.termFloor = false ∧ s.termCap = false
  /-- A run whose `S.gen` is 0 has a cause (40_control.md R153). -/
  term_cause : s.run = .running ∨ s.run = .done → s.syn.gen = false →
    s.termEnv = true ∨ s.termFloor = true ∨ s.termCap = true
  /-- The envelope stage is one of 0 to 3, and 3 ends the run (43_duty_envelope.md R231). -/
  stage_le : s.syn.envStage.toNat ≤ 3
  /-- `S.gen` is 0 in the terminal stage. -/
  stage_gen : s.syn.gen = true → s.syn.envStage.toNat ≤ 2
  /-- PS_ENV finds a stage below the terminal one. -/
  stage_env : (0x20#8).ule s.seq.upc = true → s.seq.upc.ule 0x26#8 = true → s.syn.envStage.toNat ≤ 2
  /-- `S.ipp` lies in 0..1023 (47_phaser_delay.md R290). -/
  ipp_lt : s.syn.ipp.toNat < 1024
  /-- `S.phase` never wraps (45_oscillator.md R261). -/
  phase_bound : s.syn.phase.toNat < 2 ^ 31 - 1
  /-- `S.period` is at least 8 after PS_PERIOD (42_frequency_lfo.md R214). -/
  period_floor : (0x25#8).ule s.seq.upc = true → 8 ≤ s.syn.period.toInt
  /-- The phase invariant at and after SS_WAVE (45_oscillator.md R261). -/
  phase_lt : (0x31#8).ule s.seq.upc = true → s.syn.phase.toInt < s.syn.period.toInt
  /-- The tap is in 0..1023, or the one that CVT_OOR gives (44_phaser_tap_hp_sweep.md R250). -/
  tap_range : (0x28#8).ule s.seq.upc = true → s.syn.iphase.toNat < 1024 ∨ s.syn.iphase = 0x80000000#32
  /-- The repeat counter never wraps (60_exceptions.md R330). -/
  rep_counted : counted s.syn.repTime s 0x20#8
  /-- The arpeggio counter never wraps (60_exceptions.md R330). -/
  arp_counted : counted s.syn.arpTime s 0x21#8
  /-- The envelope counter never wraps (60_exceptions.md R330). -/
  env_counted : counted s.syn.envTime s 0x26#8
  /-- Every emitted sample is in [-1, 1] or a NaN (48_output.md R301). -/
  emitted_unit : ∀ e ∈ s.emitted, unitOrNan e.value
  /-- The last SAMPLE_COUNT events are those of the run, with indices SAMPLE_COUNT - 1 down to 0 (48_output.md
  R302). -/
  emitted_index : (s.emitted.take s.sampleCount.toNat).map Emission.index =
    ((List.range s.sampleCount.toNat).map (BitVec.ofNat 32)).reverse
  /-- SAMPLE_OUT is the last emitted sample (10_state.md R39). -/
  last_out : s.sampleCount ≠ 0#32 → s.emitted.head?.map Emission.value = some s.sampleOut

end Sys2Proof.Machine
end

