-- ==== Sys2Proof/Certificates/Slice0/Obligations.lean ====
section
/-! DEFINITION. The statements about RFX-SYNTH, from the numbered rules of spec/. -/

open Sys2Proof Sys2Proof.Machine

/-! ## Encodings -/

/-- The bytes of every well-formed instruction decode, in its own format, to that instruction. The order of the eight
bytes of a transaction word is the model's choice (log 29). -/
def Obligations.DecodeInvertsEncode : Prop :=
  ∀ i : Instr, i.wellFormed = true → decode i.format (encode i) = .ok i

/-- Outside the command word, whose high bits are ignored, accepted bytes are the bytes the encoder writes. The order of
the eight bytes of a transaction word is the model's choice (log 29). -/
def Obligations.AcceptedBytesReencode : Prop :=
  ∀ (f : Format) (bytes : List Byte) (i : Instr), f ≠ .cmdw → decode f bytes = .ok i →
    i.format = f ∧ encode i = bytes

/-- Words written out from the tables of 30_encoding.md and 00_scope.md decode to what they stand for. -/
def Obligations.SpecWordsDecode : Prop :=
  decodeTxn 0x8000006000000001#64 = .ok (.wr 0x060#16 1#32) ∧
  decodeTxn 0x0000006C00000000#64 = .ok (.rd 0x06C#16) ∧
  decodeCmd 1#32 = .setup ∧ decodeCmd 2#32 = .step ∧ decodeCmd 0xFFFFFFF0#32 = .nop ∧
  decodeUop 0x1C#8 = .ok .suNoise ∧ decodeUop 0x29#8 = .ok .psSsclr ∧ decodeUop 0x30#8 = .ok .ssPhase ∧
  decodeUop 0x40#8 = .ok .poOut ∧ decodeUop 0x2A#8 = .error .unusedMicroOp ∧
  decodeWave 3#32 = .waveNoise ∧ decodeWave 7#32 = .waveOther 7#32

/-! ## Commands -/

/-- R35: a write of `v` to CTRL issues the command `v[3:0]`, and a read of CTRL returns 0. -/
def Obligations.CtrlWriteIssuesCommand : Prop :=
  ∀ (v : BitVec 32) (s : State),
    exec (.wr 0x060#16 v) s = exec (decodeCmd v) s ∧ decodeCmd v = decodeCmd (v &&& 0xF#32) ∧
    exec (.rd 0x060#16) s = .next { s with hostRdata := 0#32 }

/-- R147: a reserved opcode, and a command the state table marks refused, sets CMDERR and does nothing else. -/
def Obligations.RefusedCommandsOnlySetCmdErr : Prop :=
  ∀ (i : Instr) (s : State),
    i ∈ [Instr.reserved6, .reserved7, .reserved8, .reserved9, .reservedA, .reservedB, .reservedC, .reservedD,
        .reservedE, .reservedF] ∨ i = .setup ∧ s.run = .running ∨ i = .step ∧ s.run ≠ .ready ∨
      i = .run ∧ s.run ≠ .ready →
    exec i s = .next { s with cmdErr := true }

/-- NOP, under every spelling of its word, and IDLE change nothing; ABORT and CLRERR in every state, and RUN in READY,
write what they name and nothing else (R141, R144 to R146, R152). That ABORT and RUN keep the temporaries is the model's
choice (log 5). -/
def Obligations.CommandsWithoutSamples : Prop :=
  ∀ (s : State) (v : BitVec 32), exec .nop s = .next s ∧ exec .idle s = .next s ∧
    (v &&& 0xF#32 = 0#32 → exec (.wr 0x060#16 v) s = .next s) ∧
    exec .abort s = .next { s with run := .idle, seq := { s.seq with upc := 0x00#8 } } ∧
    exec .clrerr s = .next { s with cmdErr := false, wErr := false } ∧
    (s.run = .ready → exec .run s = .next { s with run := .running })

/-- SETUP outside RUNNING: READY, a cleared run with a filled noise table, a clamped record, and every other register
kept (R142, R52). That the temporaries are kept is the model's choice (log 5), and so is the form of the random source
(log 6). -/
def Obligations.SetupStartsARun : Prop :=
  ∀ s : State, s.run ≠ .running → ∃ t, exec .setup s = .next t ∧
    t = { s with
      prm := t.prm, run := .ready, termEnv := false, termFloor := false, termCap := false, sampleCount := 0#32,
      sampleOut := 0#32, syn := t.syn, mem := t.mem, seq := { s.seq with upc := 0x00#8 }, rng := t.rng } ∧
    t.prm = { s.prm with
      minFrequency := if lt32 s.prm.startFrequency s.prm.minFrequency then s.prm.startFrequency
        else s.prm.minFrequency,
      slide := if lt32 s.prm.slide s.prm.deltaSlide then s.prm.deltaSlide else s.prm.slide } ∧
    t.syn.gen = true ∧ t.syn.phase = 0#32 ∧ t.syn.envStage = 0#32 ∧ t.syn.envTime = 0#32 ∧ t.syn.envVol = 0#32 ∧
    t.syn.vibPhase = 0#32 ∧ t.syn.repTime = 0#32 ∧ t.syn.arpTime = 0#32 ∧ t.syn.ipp = 0#32 ∧ t.syn.fltp = 0#32 ∧
    t.syn.fltdp = 0#32 ∧ t.syn.fltphp = 0#32 ∧
    (∀ i, dlRead t.mem i = 0#32) ∧
    (s.prm.randSeed = 0#32 → t.rng = s.rng.ambient.advance 32 ∧
      ∀ j, j < 32 → ntRead t.mem j = drawValue specParams (s.rng.ambient.advance j)) ∧
    (s.prm.randSeed ≠ 0#32 → t.rng = (s.rng.reseed s.prm.randSeed).advance 32 ∧
      ∀ j, j < 32 → ntRead t.mem j = drawValue specParams ((s.rng.reseed s.prm.randSeed).advance j))

/-- SETUP is the thirteen micro-operations of SETUP_SEQ, one after another, and then READY (R142, R151). -/
def Obligations.SetupPerformsItsSequence : Prop :=
  ∀ s : State, s.run ≠ .running → ∃ u, execSeq setupInstrs s = .next u ∧
    exec .setup s = .next { u with run := .ready, seq := { u.seq with upc := 0x00#8 } }

/-- R352: what SETUP leaves depends on PRM and the random source, and on nothing of an earlier run. The same source
includes the same count of draws, at which the model reads ambient ones (log 6). -/
def Obligations.SetupIgnoresTheEarlierRun : Prop :=
  ∀ s s' : State, s.run ≠ .running → s'.run ≠ .running → s.prm = s'.prm → s.rng = s'.rng →
    ∃ t t', exec .setup s = .next t ∧ exec .setup s' = .next t' ∧
      t.syn = t'.syn ∧ t.mem = t'.mem ∧ t.prm = t'.prm ∧ t.rng = t'.rng ∧ t.sampleCount = t'.sampleCount ∧
      t.sampleOut = t'.sampleOut ∧ t.run = t'.run ∧ t.termEnv = t'.termEnv ∧ t.termFloor = t'.termFloor ∧
      t.termCap = t'.termCap ∧ t.cmdErr = s.cmdErr ∧ t'.cmdErr = s'.cmdErr ∧ t.wErr = s.wErr ∧ t'.wErr = s'.wErr

/-- STEP in READY emits exactly one sample, counts it, and ends the run if `S.gen` is then 0 (R143, R150). -/
def Obligations.StepEmitsOneSample : Prop :=
  ∀ s : State, s.run = .ready → ∃ t v, exec .step s = .next t ∧
    t = { s with
      run := t.run, termEnv := t.termEnv, termFloor := t.termFloor, termCap := t.termCap,
      sampleCount := s.sampleCount + 1#32, sampleOut := v, syn := t.syn, mem := t.mem, seq := t.seq,
      emitted := { index := s.sampleCount, value := v } :: s.emitted, rng := t.rng } ∧
    t.seq.upc = 0x00#8 ∧
    (t.syn.gen = true → t.run = .ready ∧ s.syn.gen = true ∧ t.termEnv = s.termEnv ∧ t.termFloor = s.termFloor ∧
      t.termCap = s.termCap) ∧
    (t.syn.gen = false → t.run = .done) ∧
    (s.termEnv = true → t.termEnv = true) ∧ (s.termFloor = true → t.termFloor = true) ∧
    (s.termCap = true → t.termCap = true)

/-- STEP in READY is the 59 micro-operations of OUTER_SAMPLE, one after another with no exit between them (R143, R151,
R156). That afterwards `si` stays 7 (log 25) and the temporaries keep the sample's values (log 5) is the model's choice.
-/
def Obligations.StepPerformsItsSequence : Prop :=
  ∀ s : State, s.run = .ready → ∃ u, execSeq sampleInstrs s = .next u ∧
    exec .step s = .next { u with
      run := if u.syn.gen then .ready else .done, seq := { u.seq with upc := 0x00#8, si := 7#3 } }

/-! ## Host accesses -/

/-- R33, R82: a PRM write stores all 32 bits in IDLE and DONE, and in READY and RUNNING only sets WERR; a read returns
the field. -/
def Obligations.PrmWriteStoresOrIsRefused : Prop :=
  ∀ (n : Nat) (v : BitVec 32) (s : State), n < 24 →
    (s.run = .idle ∨ s.run = .done → ∃ p, exec (.wr (BitVec.ofNat 16 (4 * n)) v) s = .next { s with prm := p } ∧
      p.words = s.prm.words.set n v) ∧
    (s.run = .ready ∨ s.run = .running →
      exec (.wr (BitVec.ofNat 16 (4 * n)) v) s = .next { s with wErr := true }) ∧
    ∃ w, s.prm.words[n]? = some w ∧
      exec (.rd (BitVec.ofNat 16 (4 * n))) s = .next { s with hostRdata := w }

/-- R83, R86: a write to CTRL issues its command, a write to a read-only or a reserved offset is ignored, and a
reserved offset reads 0. -/
def Obligations.ReadOnlyAndReservedOffsets : Prop :=
  ∀ (off : BitVec 16) (v : BitVec 32) (s : State), alignedOffset off = true →
    exec (.wr 0x060#16 v) s = exec (decodeCmd (v &&& 0xF#32)) s ∧
    (0x064 ≤ off.toNat → exec (.wr off v) s = .next s) ∧
    (0x080 ≤ off.toNat ∧ off.toNat < 0x100 ∨ 0x1A0 ≤ off.toNat ∧ off.toNat < 0x1000 ∨ 0x2080 ≤ off.toNat →
      exec (.rd off) s = .next { s with hostRdata := 0#32 })

/-- A read changes only the value the host holds, and a second read of the same offset returns the same (R90). -/
def Obligations.ReadsHaveNoSideEffect : Prop :=
  ∀ (off : BitVec 16) (s : State), alignedOffset off = true → ∃ v, ∀ held : BitVec 32,
    exec (.rd off) { s with hostRdata := held } = .next { s with hostRdata := v }

/-- R31, R81: where each field of the parameter record is read. R87, R110: the record is 96 bytes, field `n` being bytes
`4n` to `4n + 3`, least significant first, and any 96 bytes are one record. -/
def Obligations.ParameterLayout : Prop :=
  ∀ s : State, (∀ (off : BitVec 16) (v : BitVec 32),
    (off, v) ∈ [(0x00#16, s.prm.randSeed), (0x04#16, s.prm.waveType), (0x08#16, s.prm.attackTime),
      (0x0C#16, s.prm.sustainTime), (0x10#16, s.prm.sustainPunch), (0x14#16, s.prm.decayTime),
      (0x18#16, s.prm.startFrequency), (0x1C#16, s.prm.minFrequency), (0x20#16, s.prm.slide),
      (0x24#16, s.prm.deltaSlide), (0x28#16, s.prm.vibratoDepth), (0x2C#16, s.prm.vibratoSpeed),
      (0x30#16, s.prm.changeAmount), (0x34#16, s.prm.changeSpeed), (0x38#16, s.prm.squareDuty),
      (0x3C#16, s.prm.dutySweep), (0x40#16, s.prm.repeatSpeed), (0x44#16, s.prm.phaserOffset),
      (0x48#16, s.prm.phaserSweep), (0x4C#16, s.prm.lpfCutoff), (0x50#16, s.prm.lpfCutoffSweep),
      (0x54#16, s.prm.lpfResonance), (0x58#16, s.prm.hpfCutoff), (0x5C#16, s.prm.hpfCutoffSweep)] →
    exec (.rd off) s = .next { s with hostRdata := v } ∧
      ∀ k, k < 4 → s.prm.toBytes[off.toNat + k]? = some (v.extractLsb' (8 * k) 8)) ∧
    s.prm.toBytes.length = 96 ∧ Prm.ofBytes s.prm.toBytes = some s.prm ∧
    ∀ bytes : List Byte, if bytes.length = 96 then ∃ p, Prm.ofBytes bytes = some p ∧ p.toBytes = bytes
      else Prm.ofBytes bytes = none

/-- Where each Synthesis State register is read; an f64 register is its low word, then its high word (R84, R42 to
R45). -/
def Obligations.DebugMirrorLayout : Prop :=
  ∀ s : State,
    (∀ (off : BitVec 16) (v : BitVec 32),
      (off, v) ∈ [(0x100#16, s.syn.phase), (0x104#16, s.syn.period), (0x130#16, s.syn.squareDuty),
        (0x134#16, s.syn.squareSlide), (0x138#16, s.syn.envStage), (0x13C#16, s.syn.envTime),
        (0x140#16, s.syn.envLen0), (0x144#16, s.syn.envLen1), (0x148#16, s.syn.envLen2), (0x14C#16, s.syn.envVol),
        (0x150#16, s.syn.fphase), (0x154#16, s.syn.fdphase), (0x158#16, s.syn.iphase), (0x15C#16, s.syn.ipp),
        (0x160#16, s.syn.fltp), (0x164#16, s.syn.fltdp), (0x168#16, s.syn.fltw), (0x16C#16, s.syn.fltwd),
        (0x170#16, s.syn.fltdmp), (0x174#16, s.syn.fltphp), (0x178#16, s.syn.flthp), (0x17C#16, s.syn.flthpd),
        (0x180#16, s.syn.vibPhase), (0x184#16, s.syn.vibSpeed), (0x188#16, s.syn.vibAmp), (0x18C#16, s.syn.repTime),
        (0x190#16, s.syn.repLimit), (0x194#16, s.syn.arpTime), (0x198#16, s.syn.arpLimit),
        (0x19C#16, (BitVec.ofBool s.syn.gen).setWidth 32)] →
      exec (.rd off) s = .next { s with hostRdata := v }) ∧
    ∀ (off : BitVec 16) (x : F64),
      (off, x) ∈ [(0x108#16, s.syn.fperiod), (0x110#16, s.syn.fmaxperiod), (0x118#16, s.syn.fslide),
        (0x120#16, s.syn.fdslide), (0x128#16, s.syn.arpMod)] →
      ∃ low high, exec (.rd off) s = .next { s with hostRdata := low } ∧
        exec (.rd (off + 4#16)) s = .next { s with hostRdata := high } ∧ high ++ low = x

/-- The fields of STATUS, the count and last-sample registers, and the constants (R36, R38 to R40). -/
def Obligations.StatusAndConstantsRead : Prop :=
  ∀ s : State,
    (∃ w, exec (.rd 0x064#16) s = .next { s with hostRdata := w } ∧
      w.extractLsb' 0 2 = (match s.run with | .idle => 0#2 | .ready => 1#2 | .running => 2#2 | .done => 3#2) ∧
      w.getLsbD 2 = s.syn.gen ∧ w.getLsbD 3 = false ∧ w.getLsbD 4 = s.termEnv ∧ w.getLsbD 5 = s.termFloor ∧
      w.getLsbD 6 = s.termCap ∧ w.getLsbD 7 = false ∧ w.getLsbD 8 = s.cmdErr ∧ w.getLsbD 9 = s.wErr ∧
      w.extractLsb' 10 22 = 0#22) ∧
    exec (.rd 0x068#16) s = .next { s with hostRdata := s.sampleCount } ∧
    exec (.rd 0x06C#16) s = .next { s with hostRdata := s.sampleOut } ∧
    exec (.rd 0x070#16) s = .next { s with hostRdata := 44100#32 } ∧
    exec (.rd 0x074#16) s = .next { s with hostRdata := 0x00000120#32 } ∧
    exec (.rd 0x078#16) s = .next { s with hostRdata := 441000#32 } ∧
    exec (.rd 0x07C#16) s = .next { s with hostRdata := 1#32 }

/-- R85: the windows of the delay line and of the noise table. -/
def Obligations.MemoryWindowsRead : Prop :=
  ∀ s : State,
    (∀ i, i < 1024 → exec (.rd (BitVec.ofNat 16 (0x1000 + 4 * i))) s =
      .next { s with hostRdata := dlRead s.mem (BitVec.ofNat 32 i) }) ∧
    ∀ j, j < 32 → exec (.rd (BitVec.ofNat 16 (0x2000 + 4 * j))) s = .next { s with hostRdata := ntRead s.mem j }

/-- An access that is misaligned or not of size 4 has no step (R88). -/
def Obligations.OtherAccessesHaveNoStep : Prop :=
  ∀ (off : BitVec 16) (v : BitVec 32) (s : State),
    (off.extractLsb' 0 2 ≠ 0#2 →
      exec (.wr off v) s = .refused .misalignedAccess ∧ exec (.rd off) s = .refused .misalignedAccess) ∧
    ∀ (size : Nat) (write : Bool), size ≠ 4 → fetchInput (.access size write off v) s = .stop .accessSize

/-! ## Setup micro-operations -/

/-- SU_RESEED writes no register; a nonzero seed reseeds the source, whose draws are then those of the seed, and under
seed 0 the draws that follow are ambient, in no relation to an earlier run (R180, R333; 93_implementation_defined.md U7).
How the state records this is the model's choice (log 6). -/
def Obligations.ReseedOnlyForNonzeroSeed : Prop :=
  decodeUop 0x10#8 = .ok .suReseed ∧
  ∀ s : State,
    (s.prm.randSeed = 0#32 → exec .suReseed s = .next { s with rng := s.rng.ambient } ∧
      ∀ n, drawValue specParams (s.rng.ambient.advance n) = unitDraw (Config.ambientDraw (s.rng.total + n))) ∧
    (s.prm.randSeed ≠ 0#32 → exec .suReseed s = .next { s with rng := s.rng.reseed s.prm.randSeed } ∧
      ∀ n, drawValue specParams ((s.rng.reseed s.prm.randSeed).advance n) =
        unitDraw (Config.rngAlgo s.prm.randSeed n))

/-- SU_CLAMP writes at most two fields; afterwards the record is ordered, and a second clamp writes nothing (R181). -/
def Obligations.ClampOrdersTheRecord : Prop :=
  decodeUop 0x11#8 = .ok .suClamp ∧
  ∀ s : State, ∃ t, exec .suClamp s = .next t ∧
    t = { s with prm := { s.prm with
      minFrequency := if lt32 s.prm.startFrequency s.prm.minFrequency then s.prm.startFrequency
        else s.prm.minFrequency,
      slide := if lt32 s.prm.slide s.prm.deltaSlide then s.prm.deltaSlide else s.prm.slide } } ∧
    lt32 t.prm.startFrequency t.prm.minFrequency = false ∧ lt32 t.prm.slide t.prm.deltaSlide = false ∧
    exec .suClamp t = .next t

/-- SU_CLEAR zeroes every Synthesis State register, both memories, the TERM bits and the sample registers, and sets
`S.gen` (R182). -/
def Obligations.ClearZeroesTheRun : Prop :=
  decodeUop 0x12#8 = .ok .suClear ∧
  ∀ s : State, ∃ t, exec .suClear s = .next t ∧
    t = { s with syn := t.syn, mem := t.mem, termEnv := false, termFloor := false, termCap := false,
                 sampleCount := 0#32, sampleOut := 0#32 } ∧
    t.syn.words = List.replicate 39 0#32 ++ [1#32] ∧
    (∀ i, dlRead t.mem i = 0#32) ∧ ∀ j, j < 32 → ntRead t.mem j = 0#32

/-- The frequency, slide, arpeggio and duty derivations (R183 to R186), with the default constants of R25 written out,
and the default CVT_OOR of their truncations (R8, R16). -/
def Obligations.FrequencyDerivations : Prop :=
  specParams.cvtOor = 0x80000000#32 ∧
  ∀ s : State, let P := specParams
    let one : F32 := 0x3F800000#32
    let oneD : F64 := 0x3FF0000000000000#64
    let perNum : F64 := 0x4059000000000000#64 -- 100.0
    let perEps : F64 := 0x3F50624DD2F1A9FC#64 -- 0.001
    let period := fun f : F32 => div64 P perNum (add64 P (f64 P (mul32 P f f)) perEps)
    let slideMul : F64 := 0x3F847AE147AE147B#64 -- 0.01
    let deltaSlideMul : F64 := 0x3EB0C6F7A0B5ED8D#64 -- 0.000001
    let arpPos : F64 := 0x3FECCCCCCCCCCCCD#64 -- 0.9
    let arpNeg : F64 := 0x4024000000000000#64 -- 10.0
    let limMul : F64 := 0x40D3880000000000#64 -- 20000.0
    let limAdd : F64 := 0x4040000000000000#64 -- 32.0
    let dutyBase : F32 := 0x3F000000#32 -- 0.5f
    let dutyMul : F32 := 0x3F000000#32 -- 0.5f
    let dutySweepMul : F32 := 0x3851B717#32 -- 0.00005f
    exec .suPeriod s = .next { s with syn := { s.syn with
      fperiod := period s.prm.startFrequency, period := trunc64 P (period s.prm.startFrequency),
      fmaxperiod := period s.prm.minFrequency } } ∧
    exec .suSlide s = .next { s with syn := { s.syn with
      fslide := sub64 P oneD (mul64 P (cube64 P s.prm.slide) slideMul),
      fdslide := mul64 P (cube64 P s.prm.deltaSlide) deltaSlideMul ^^^ 0x8000000000000000#64 } } ∧
    exec .suArp s = .next { s with syn := { s.syn with
      arpMod := if ge32 s.prm.changeAmount 0#32 then sub64 P oneD (mul64 P (sq64 P s.prm.changeAmount) arpPos)
        else add64 P oneD (mul64 P (sq64 P s.prm.changeAmount) arpNeg),
      arpLimit := if eq32 s.prm.changeSpeed one then 0#32 else
        trunc64 P (add64 P (mul64 P (sq64 P (sub32 P one s.prm.changeSpeed)) limMul) limAdd),
      arpTime := 0#32 } } ∧
    exec .suDuty s = .next { s with syn := { s.syn with
      squareDuty := sub32 P dutyBase (mul32 P s.prm.squareDuty dutyMul),
      squareSlide := mul32 P s.prm.dutySweep dutySweepMul ^^^ 0x80000000#32 } }

/-- The filter and vibrato derivations (R187, R188), with the default constants of R25 written out. -/
def Obligations.FilterAndVibratoDerivations : Prop :=
  ∀ s : State, let P := specParams
    let one : F32 := 0x3F800000#32
    let oneD : F64 := 0x3FF0000000000000#64
    let lpw : F32 := 0x3DCCCCCD#32 -- 0.1f
    let lpwd : F32 := 0x38D1B717#32 -- 0.0001f
    let dmpNum : F64 := 0x4014000000000000#64 -- 5.0
    let dmpRes : F64 := 0x4034000000000000#64 -- 20.0
    let dmpAdd : F32 := 0x3C23D70A#32 -- 0.01f
    let dmpMax : F32 := 0x3F4CCCCD#32 -- 0.8f
    let hp : F32 := 0x3DCCCCCD#32 -- 0.1f
    let hpd : F32 := 0x399D4952#32 -- 0.0003f
    let vibSpd : F32 := 0x3C23D70A#32 -- 0.01f
    let vibAmp : F32 := 0x3F000000#32 -- 0.5f
    let w := cvt32 P (mul64 P (cube64 P s.prm.lpfCutoff) (f64 P lpw))
    let d := cvt32 P (mul64 P (div64 P dmpNum (add64 P oneD (mul64 P (sq64 P s.prm.lpfResonance) dmpRes)))
      (f64 P (add32 P dmpAdd w)))
    exec .suFilter s = .next { s with syn := { s.syn with
      fltw := w,
      fltwd := add32 P one (mul32 P s.prm.lpfCutoffSweep lpwd),
      fltdmp := if lt32 dmpMax d then dmpMax else d,
      flthp := cvt32 P (mul64 P (sq64 P s.prm.hpfCutoff) (f64 P hp)),
      flthpd := cvt32 P (add64 P oneD (f64 P (mul32 P s.prm.hpfCutoffSweep hpd))) } } ∧
    exec .suVibrato s = .next { s with syn := { s.syn with
      vibSpeed := cvt32 P (mul64 P (sq64 P s.prm.vibratoSpeed) (f64 P vibSpd)),
      vibAmp := mul32 P s.prm.vibratoDepth vibAmp } }

/-- The envelope, phaser and repeat derivations (R189 to R191), with the default constants of R25 written out, and the
default CVT_OOR of their truncations (R8, R16). -/
def Obligations.EnvelopePhaserRepeatDerivations : Prop :=
  specParams.cvtOor = 0x80000000#32 ∧
  ∀ s : State, let P := specParams
    let one : F32 := 0x3F800000#32
    let env : F32 := 0x47C35000#32 -- 100000.0f
    let phOff : F64 := 0x408FE00000000000#64 -- 1020.0
    let phSwp : F64 := 0x3FF0000000000000#64 -- 1.0
    let limMul : F64 := 0x40D3880000000000#64 -- 20000.0
    let limAdd : F64 := 0x4040000000000000#64 -- 32.0
    let flip := fun (v m : F32) => if lt32 v 0#32 then m ^^^ 0x80000000#32 else m
    let offset := flip s.prm.phaserOffset (cvt32 P (mul64 P (sq64 P s.prm.phaserOffset) phOff))
    exec .suEnvlen s = .next { s with syn := { s.syn with
      envLen0 := trunc32 P (mul32 P (mul32 P s.prm.attackTime s.prm.attackTime) env),
      envLen1 := trunc32 P (mul32 P (mul32 P s.prm.sustainTime s.prm.sustainTime) env),
      envLen2 := trunc32 P (mul32 P (mul32 P s.prm.decayTime s.prm.decayTime) env) } } ∧
    exec .suPhaser s = .next { s with syn := { s.syn with
      fphase := offset,
      fdphase := flip s.prm.phaserSweep (cvt32 P (mul64 P (sq64 P s.prm.phaserSweep) phSwp)),
      iphase := if (trunc32 P offset).slt 0#32 then 0#32 - trunc32 P offset else trunc32 P offset } } ∧
    exec .suRepeat s = .next { s with syn := { s.syn with
      repLimit := if eq32 s.prm.repeatSpeed 0#32 then 0#32 else
        trunc64 P (add64 P (mul64 P (sq64 P (sub32 P one s.prm.repeatSpeed)) limMul) limAdd) } }

/-- SU_NOISE makes 32 draws, for NT[0] to NT[31] in that order, each in [-1, 1], and stores nowhere else (R192, R333).
-/
def Obligations.NoiseFillDrawsInOrder : Prop :=
  decodeUop 0x1C#8 = .ok .suNoise ∧
  ∀ s : State, s.mem.wf = true → ∃ t, exec .suNoise s = .next t ∧
    t = { s with mem := t.mem, rng := s.rng.advance 32 } ∧
    sameMemoryOutside 0x2000 0x80 s t ∧
    ∀ j, j < 32 → ntRead t.mem j = drawValue specParams (s.rng.advance j) ∧
      inUnit (ntRead t.mem j) = true

/-! ## Micro-operations of an outer sample -/

/-- PS_REPEAT counts; when a nonzero limit is reached it restarts the count and performs four derivations again, and
touches nothing else (R210). -/
def Obligations.RepeatRederives : Prop :=
  decodeUop 0x20#8 = .ok .psRepeat ∧
  ∀ s : State, let next := s.syn.repTime + 1#32
    let reached := s.syn.repLimit ≠ 0#32 ∧ s.syn.repLimit.toInt ≤ next.toInt
    (¬reached → exec .psRepeat s = .next { s with syn := { s.syn with repTime := next } }) ∧
    (reached → ∃ t, exec .psRepeat s = .next t ∧
      execSeq [.suPeriod, .suSlide, .suDuty, .suArp] { s with syn := { s.syn with repTime := 0#32 } } = .next t ∧
      t = { s with syn := { s.syn with
        repTime := 0#32, fperiod := t.syn.fperiod, period := t.syn.period, fmaxperiod := t.syn.fmaxperiod,
        fslide := t.syn.fslide, fdslide := t.syn.fdslide, squareDuty := t.syn.squareDuty,
        squareSlide := t.syn.squareSlide, arpMod := t.syn.arpMod, arpLimit := t.syn.arpLimit,
        arpTime := 0#32 } })

/-- PS_ARP counts; when a nonzero limit is reached it multiplies the period by the arpeggio factor and disarms itself
(R211). -/
def Obligations.ArpeggioFiresOnce : Prop :=
  decodeUop 0x21#8 = .ok .psArp ∧
  ∀ s : State, let next := s.syn.arpTime + 1#32
    let reached := s.syn.arpLimit ≠ 0#32 ∧ s.syn.arpLimit.toInt ≤ next.toInt
    (¬reached → exec .psArp s = .next { s with syn := { s.syn with arpTime := next } }) ∧
    (reached → exec .psArp s = .next { s with syn := { s.syn with
      arpTime := next, arpLimit := 0#32, fperiod := mul64 specParams s.syn.fperiod s.syn.arpMod } })

/-- PS_SLIDE: the slide accumulates and multiplies, and a period above the floor clamps, ending the run only if a
minimum frequency above 0 was asked for (R212). -/
def Obligations.SlideClampsAtTheFloor : Prop :=
  decodeUop 0x22#8 = .ok .psSlide ∧
  ∀ s : State,
    let slide := add64 specParams s.syn.fslide s.syn.fdslide
    let period := mul64 specParams s.syn.fperiod slide
    (lt64 s.syn.fmaxperiod period = false →
      exec .psSlide s = .next { s with syn := { s.syn with fslide := slide, fperiod := period } }) ∧
    (lt64 s.syn.fmaxperiod period = true → lt32 0#32 s.prm.minFrequency = false →
      exec .psSlide s = .next { s with syn := { s.syn with fslide := slide, fperiod := s.syn.fmaxperiod } }) ∧
    (lt64 s.syn.fmaxperiod period = true → lt32 0#32 s.prm.minFrequency = true →
      exec .psSlide s = .next { s with
        syn := { s.syn with fslide := slide, fperiod := s.syn.fmaxperiod, gen := false }, termFloor := true })

/-- PS_VIBRATO, with the LFO off and on (R213). -/
def Obligations.VibratoModulatesThePeriod : Prop :=
  decodeUop 0x23#8 = .ok .psVibrato ∧
  ∀ s : State, let P := specParams
    let phase := add32 P s.syn.vibPhase s.syn.vibSpeed
    (lt32 0#32 s.syn.vibAmp = false → exec .psVibrato s = .next { s with
      seq := { s.seq with rfperiod := cvt32 P s.syn.fperiod } }) ∧
    (lt32 0#32 s.syn.vibAmp = true → exec .psVibrato s = .next { s with
      syn := { s.syn with vibPhase := phase },
      seq := { s.seq with rfperiod := cvt32 P (mul64 P s.syn.fperiod
        (add64 P one64 (f64 P (mul32 P (specParams.sin32 phase) s.syn.vibAmp)))) } })

/-- PS_PERIOD truncates the effective period and floors it, so that the period is at least 8 in every state (R214). -/
def Obligations.PeriodIsAtLeastEight : Prop :=
  decodeUop 0x24#8 = .ok .psPeriod ∧
  ∀ s : State, ∃ t, exec .psPeriod s = .next t ∧
    t = { s with syn := { s.syn with period := t.syn.period } } ∧ 8 ≤ t.syn.period.toInt ∧
    (8 ≤ (trunc32 specParams s.seq.rfperiod).toInt → t.syn.period = trunc32 specParams s.seq.rfperiod) ∧
    ((trunc32 specParams s.seq.rfperiod).toInt < 8 → t.syn.period = 8#32)

/-- PS_DUTY, PS_HP_SWEEP and SU_FILTER leave their register a NaN or inside its range, and SS_LPF leaves the bandwidth
so (R230, R251, R187, R280). -/
def Obligations.ClampedRegistersStayInRange : Prop :=
  ∀ s : State, let within := fun (lo hi x : F32) => isNan32 x = true ∨ ge32 x lo = true ∧ ge32 hi x = true
    (∃ t, exec .psDuty s = .next t ∧ within 0x00000000#32 0x3F000000#32 t.syn.squareDuty) ∧
    (eq32 s.syn.flthpd 0#32 = false →
      ∃ t, exec .psHpSweep s = .next t ∧ within 0x3727C5AC#32 0x3DCCCCCD#32 t.syn.flthp) ∧
    (∃ t, exec .ssLpf s = .next t ∧ within 0x00000000#32 0x3DCCCCCD#32 t.syn.fltw) ∧
    ∃ t, exec .suFilter s = .next t ∧ (isNan32 t.syn.fltdmp = true ∨ ge32 0x3F4CCCCD#32 t.syn.fltdmp = true)

/-- PS_DUTY and PS_HP_SWEEP: what each writes, and that a factor of exactly 0 closes the high-pass gate (R230, R251). -/
def Obligations.DutyAndHighPassSweeps : Prop :=
  ∀ s : State, let P := specParams
    let clamp := fun (lo hi x : F32) =>
      let x := if lt32 x lo then lo else x
      if lt32 hi x then hi else x
    exec .psDuty s = .next { s with syn := { s.syn with
      squareDuty := clamp 0x00000000#32 0x3F000000#32 (add32 P s.syn.squareDuty s.syn.squareSlide) } } ∧
    (eq32 s.syn.flthpd 0#32 = true → exec .psHpSweep s = .next s) ∧
    (eq32 s.syn.flthpd 0#32 = false → exec .psHpSweep s = .next { s with syn := { s.syn with
      flthp := clamp 0x3727C5AC#32 0x3DCCCCCD#32 (mul32 P s.syn.flthp s.syn.flthpd) } })

/-- PS_ENV in the stages 0 to 2: the time, the stage, the volume of the stage it ends in, and the ENV termination
(R231). -/
def Obligations.EnvelopeStateMachine : Prop :=
  decodeUop 0x26#8 = .ok .psEnv ∧
  ∀ (s : State) (len : I32),
    s.syn.envStage = 0#32 ∧ len = s.syn.envLen0 ∨ s.syn.envStage = 1#32 ∧ len = s.syn.envLen1 ∨
      s.syn.envStage = 2#32 ∧ len = s.syn.envLen2 →
    let P := specParams
    ∃ t, exec .psEnv s = .next t ∧
      t = { s with
        syn := { s.syn with envTime := t.syn.envTime, envStage := t.syn.envStage, envVol := t.syn.envVol,
                            gen := t.syn.gen },
        termEnv := t.termEnv } ∧
      ((s.syn.envTime + 1#32).toInt ≤ len.toInt →
        t.syn.envTime = s.syn.envTime + 1#32 ∧ t.syn.envStage = s.syn.envStage) ∧
      (len.toInt < (s.syn.envTime + 1#32).toInt →
        t.syn.envTime = 0#32 ∧ t.syn.envStage = s.syn.envStage + 1#32) ∧
      (t.syn.envStage = 3#32 → t.syn.gen = false ∧ t.termEnv = true ∧ t.syn.envVol = s.syn.envVol) ∧
      (t.syn.envStage ≠ 3#32 → t.syn.gen = s.syn.gen ∧ t.termEnv = s.termEnv) ∧
      (t.syn.envStage = 0#32 → t.syn.envVol = div32 P (i2f32 t.syn.envTime) (i2f32 s.syn.envLen0)) ∧
      (t.syn.envStage = 1#32 → t.syn.envVol = cvt32 P (add64 P one64 (mul64 P (mul64 P
        (f64 P (sub32 P one32 (div32 P (i2f32 t.syn.envTime) (i2f32 s.syn.envLen1)))) two64)
        (f64 P s.prm.sustainPunch)))) ∧
      (t.syn.envStage = 2#32 →
        t.syn.envVol = sub32 P one32 (div32 P (i2f32 t.syn.envTime) (i2f32 s.syn.envLen2)))

/-- From the first stage, the envelope ends after exactly `max(L0,0) + max(L1,0) + max(L2,0) + 3` samples (R231). -/
def Obligations.EnvelopeSampleCount : Prop :=
  ∀ (P : Params) (s : State), s.syn.envStage = 0#32 → s.syn.envTime = 0#32 → s.syn.gen = true →
    s.syn.envLen0.toInt < 2 ^ 31 - 1 → s.syn.envLen1.toInt < 2 ^ 31 - 1 → s.syn.envLen2.toInt < 2 ^ 31 - 1 →
    let n := stageSamples s.syn.envLen0 + stageSamples s.syn.envLen1 + stageSamples s.syn.envLen2 + 3
    (∀ k, k < n → (envelopeSamples P k s).syn.gen = true) ∧
    (envelopeSamples P n s).syn.gen = false ∧ (envelopeSamples P n s).syn.envStage = 3#32 ∧
    (envelopeSamples P n s).termEnv = true

/-- PS_PHASER_TAP: the offset is swept and never clamped; the tap is its integer magnitude, clamped above, and lies in
0..1023 or is the one that CVT_OOR gives (R250). -/
def Obligations.PhaserTapRange : Prop :=
  decodeUop 0x27#8 = .ok .psPhaserTap ∧
  ∀ s : State, let P := specParams
    let offset := add32 P s.syn.fphase s.syn.fdphase
    ∃ t, exec .psPhaserTap s = .next t ∧
      t = { s with syn := { s.syn with fphase := offset, iphase := t.syn.iphase } } ∧
      (trunc32 P offset ≠ 0x80000000#32 → t.syn.iphase.toNat = min 1023 (trunc32 P offset).toInt.natAbs) ∧
      (trunc32 P offset = 0x80000000#32 → t.syn.iphase = 0x80000000#32)

/-- SS_PHASE: the phase advances and wraps by a modulo, and only a wrap of the noise waveform refills the noise table
(R260, R262). -/
def Obligations.PhaseWrapsByModulo : Prop :=
  decodeUop 0x30#8 = .ok .ssPhase ∧
  ∀ s : State, s.mem.wf = true → 0 < s.syn.period.toInt → 0 ≤ s.syn.phase.toInt → s.syn.phase.toInt < 2 ^ 31 - 1 →
    ∃ t, exec .ssPhase s = .next t ∧
      t = { s with syn := { s.syn with phase := t.syn.phase }, mem := t.mem, rng := t.rng } ∧
      t.syn.phase.toInt = (s.syn.phase.toInt + 1) % s.syn.period.toInt ∧
      (s.syn.phase.toInt + 1 < s.syn.period.toInt ∨ s.prm.waveType ≠ 3#32 → t.mem = s.mem ∧ t.rng = s.rng) ∧
      (s.syn.period.toInt ≤ s.syn.phase.toInt + 1 → s.prm.waveType = 3#32 →
        t.rng = s.rng.advance 32 ∧ sameMemoryOutside 0x2000 0x80 s t ∧
        ∀ j, j < 32 → ntRead t.mem j = drawValue specParams (s.rng.advance j))

/-- SS_WAVE: the phase fraction, and the sample of each selector (R263 to R267, R24). -/
def Obligations.WaveformLookup : Prop :=
  decodeUop 0x31#8 = .ok .ssWave ∧
  ∀ s : State, let P := specParams
    let fp := div32 P (i2f32 s.syn.phase) (i2f32 s.syn.period)
    ∃ t, exec .ssWave s = .next t ∧
      t = { s with seq := { s.seq with fp := fp, sample := t.seq.sample } } ∧
      (s.prm.waveType = 0#32 →
        t.seq.sample = if lt32 fp s.syn.squareDuty then 0x3F000000#32 else 0xBF000000#32) ∧
      (s.prm.waveType = 1#32 → t.seq.sample = sub32 P one32 (mul32 P fp two32)) ∧
      (s.prm.waveType = 2#32 → t.seq.sample = specParams.sin32 (mul32 P (mul32 P fp two32) 0x40490FDB#32)) ∧
      (s.prm.waveType = 3#32 → 0 ≤ s.syn.phase.toInt → s.syn.phase.toInt < s.syn.period.toInt →
        ∃ j : Nat, j < 32 ∧ (j : Int) = s.syn.phase.toInt * 32 / s.syn.period.toInt ∧ t.seq.sample = ntRead s.mem j) ∧
      (4 ≤ s.prm.waveType.toNat → t.seq.sample = 0x00000000#32)

/-- Each case of SS_WAVE alone, on a phase fraction already computed, writes `sample` and nothing else (R264 to R267,
R24). Executing a case alone is the model's reading of the table's WAVESEL rows (log 22). -/
def Obligations.WaveCasesWriteTheSample : Prop :=
  ∀ (s : State) (sel : I32), let P := specParams
    exec .waveSquare s = .next { s with seq := { s.seq with
      sample := if lt32 s.seq.fp s.syn.squareDuty then 0x3F000000#32 else 0xBF000000#32 } } ∧
    exec .waveSawtooth s = .next { s with seq := { s.seq with
      sample := sub32 P one32 (mul32 P s.seq.fp two32) } } ∧
    exec .waveSine s = .next { s with seq := { s.seq with
      sample := specParams.sin32 (mul32 P (mul32 P s.seq.fp two32) 0x40490FDB#32) } } ∧
    (0 ≤ s.syn.phase.toInt → s.syn.phase.toInt < s.syn.period.toInt →
      exec .waveNoise s = .next { s with seq := { s.seq with
        sample := ntRead s.mem (s.syn.phase.toNat * 32 / s.syn.period.toNat) } }) ∧
    exec (.waveOther sel) s = .next { s with seq := { s.seq with sample := 0x00000000#32 } } ∧
    exec .ssWave s = exec (decodeWave s.prm.waveType) { s with seq := { s.seq with
      fp := div32 P (i2f32 s.syn.phase) (i2f32 s.syn.period) } }

/-- SS_LPF: the bandwidth sweep, then the damped integration, or the bypass at a cutoff of exactly 1.0f; and SS_HPF
(R280, R281). -/
def Obligations.FilterSections : Prop :=
  decodeUop 0x32#8 = .ok .ssLpf ∧ decodeUop 0x33#8 = .ok .ssHpf ∧
  ∀ s : State, let P := specParams
    let w0 := mul32 P s.syn.fltw s.syn.fltwd
    let w1 := if lt32 w0 0x00000000#32 then 0x00000000#32 else w0
    let w := if lt32 0x3DCCCCCD#32 w1 then 0x3DCCCCCD#32 else w1
    let d0 := add32 P s.syn.fltdp (mul32 P (sub32 P s.seq.sample s.syn.fltp) w)
    let d := sub32 P d0 (mul32 P d0 s.syn.fltdmp)
    let h := add32 P s.syn.fltphp (sub32 P s.syn.fltp s.seq.pp)
    let out := sub32 P h (mul32 P h s.syn.flthp)
    (eq32 s.prm.lpfCutoff 0x3F800000#32 = false → exec .ssLpf s = .next { s with
      syn := { s.syn with fltw := w, fltdp := d, fltp := add32 P s.syn.fltp d },
      seq := { s.seq with pp := s.syn.fltp } }) ∧
    (eq32 s.prm.lpfCutoff 0x3F800000#32 = true → exec .ssLpf s = .next { s with
      syn := { s.syn with fltw := w, fltdp := 0#32, fltp := add32 P s.seq.sample 0#32 },
      seq := { s.seq with pp := s.syn.fltp } }) ∧
    exec .ssHpf s = .next { s with syn := { s.syn with fltphp := out }, seq := { s.seq with sample := out } }

/-- SS_PHASER stores the sample in the slot of `S.ipp` and nowhere else, then adds the slot the tap selects; tap 0,
and the tap of CVT_OOR, add the sample to itself (R290). -/
def Obligations.PhaserWritesBeforeTheTap : Prop :=
  decodeUop 0x34#8 = .ok .ssPhaser ∧
  ∀ s : State, s.mem.wf = true → let P := specParams
    ∃ t, exec .ssPhaser s = .next t ∧
      t = { s with syn := { s.syn with ipp := (s.syn.ipp + 1#32) &&& 1023#32 }, mem := t.mem,
                   seq := { s.seq with sample := t.seq.sample } } ∧
      dlRead t.mem s.syn.ipp = s.seq.sample ∧
      sameMemoryOutside (dlAddr (dlSlot s.syn.ipp)) 4 s t ∧
      t.seq.sample = add32 P s.seq.sample (dlRead t.mem ((s.syn.ipp - s.syn.iphase + 1024#32) &&& 1023#32)) ∧
      (s.syn.iphase = 0#32 ∨ s.syn.iphase = 0x80000000#32 → t.seq.sample = add32 P s.seq.sample s.seq.sample)

/-- The slot a tap selects holds the sample written that many sub-samples earlier, and +0.0, as SETUP leaves every slot,
if so many have not been written since (R290). -/
def Obligations.DelayLineHoldsTheHistory : Prop :=
  ∀ (P : Params) (s : State) (samples : List F32) (tap : Nat), s.mem.wf = true → tap < 1024 →
    let t := feedDelay P samples s
    let delayed := dlRead t.mem (t.syn.ipp - 1#32 - BitVec.ofNat 32 tap)
    (tap < samples.length → samples[samples.length - 1 - tap]? = some delayed) ∧
    (samples.length ≤ tap → (∀ i, dlRead s.mem i = 0#32) → delayed = 0x00000000#32)

/-- PS_SSCLR and SS_ACC (R300, R303). -/
def Obligations.AccumulatorClearsAndSums : Prop :=
  decodeUop 0x29#8 = .ok .psSsclr ∧ decodeUop 0x35#8 = .ok .ssAcc ∧
  ∀ s : State,
    exec .psSsclr s = .next { s with seq := { s.seq with ssample := 0x00000000#32 } } ∧
    exec .ssAcc s = .next { s with seq := { s.seq with
      ssample := add32 specParams s.seq.ssample (mul32 specParams s.seq.sample s.syn.envVol) } }

/-- PO_OUT averages, scales and clamps, emits one event and counts it; the 441000th sample ends the run (R301, R302). -/
def Obligations.OutputEmitsAndCounts : Prop :=
  decodeUop 0x40#8 = .ok .poOut ∧
  ∀ s : State, let P := specParams
    let v0 := mul32 P (div32 P s.seq.ssample 0x41000000#32) 0x3E4CCCCD#32
    let v1 := if lt32 0x3F800000#32 v0 then 0x3F800000#32 else v0
    let v := if lt32 v1 0xBF800000#32 then 0xBF800000#32 else v1
    unitOrNan v ∧
    (s.sampleCount ≠ 440999#32 → exec .poOut s = .next { s with
      seq := { s.seq with ssample := v }, sampleOut := v, sampleCount := s.sampleCount + 1#32,
      emitted := { index := s.sampleCount, value := v } :: s.emitted }) ∧
    (s.sampleCount = 440999#32 → exec .poOut s = .next { s with
      seq := { s.seq with ssample := v }, sampleOut := v, sampleCount := 441000#32,
      emitted := { index := s.sampleCount, value := v } :: s.emitted,
      syn := { s.syn with gen := false }, termCap := true })

/-- What no micro-operation touches, and which ones touch the parameter record, each memory byte, the output port, the
sample registers, the random source and the TERM bits (R11, R99, R333; the "Registers written" of files 41 to 48). -/
def Obligations.MicroOperationFrame : Prop :=
  ∀ (i : Instr) (s t : State), i.format = .uop ∨ i.format = .wavesel → exec i s = .next t →
    t.run = s.run ∧ t.cmdErr = s.cmdErr ∧ t.wErr = s.wErr ∧ t.inputs = s.inputs ∧ t.hostRdata = s.hostRdata ∧
    t.hostTurn = s.hostTurn ∧ t.tick = s.tick ∧ t.seq.upc = s.seq.upc ∧ t.seq.si = s.seq.si ∧
    (i ≠ .suClamp → t.prm = s.prm) ∧
    (i ∉ [.suClear, .suNoise, .ssPhase, .ssPhaser] → sameMemory s t) ∧
    (i ≠ .poOut → t.emitted = s.emitted) ∧
    (i ∉ [.poOut, .suClear] → t.sampleCount = s.sampleCount ∧ t.sampleOut = s.sampleOut ∧ t.termCap = s.termCap) ∧
    (i ∉ [.suReseed, .suNoise, .ssPhase] → t.rng = s.rng) ∧
    (i ∉ [.psEnv, .suClear] → t.termEnv = s.termEnv) ∧
    (i ∉ [.psSlide, .suClear] → t.termFloor = s.termFloor)

/-! ## The whole machine -/

/-- The error bits: only CLRERR clears one, only a write to CTRL raises CMDERR, and only a PRM write raises WERR (R36,
R321, R324). -/
def Obligations.ErrorBitsAreSticky : Prop :=
  ∀ (i : Instr) (s t : State), exec i s = .next t →
    (i = .clrerr ∨ (∃ v, i = .wr 0x060#16 v ∧ decodeCmd v = .clrerr) ∨
      (s.cmdErr = true → t.cmdErr = true) ∧ (s.wErr = true → t.wErr = true)) ∧
    (t.cmdErr = true → s.cmdErr = true ∨ i.format = .cmdw ∨ ∃ v, i = .wr 0x060#16 v) ∧
    (t.wErr = true → s.wErr = true ∨ ∃ off v, i = .wr off v ∧ off.toNat < 0x060)

/-- A step executes the decoded instruction: the micro-operation in `upc`, and between transitions the host's next
transaction or raw access of size 4, or the first micro-operation of an outer sample, or nothing. All of it rests on the
model's choices: that a step is one micro-operation, and not a whole transition (log 1); which agent moves first, a
schedule whose next value is free (log 2); that the host's pending accesses stand in the state (log 3); and that `upc` is
executed for the setup ids and IDLE too, at which no transition rests (log 28). -/
def Obligations.StepRunsTheInstruction : Prop :=
  ∀ (s : State) (i : Instr),
    (s.seq.upc ≠ 0x00#8 → decodeUop s.seq.upc = .ok i → step s = complete (exec i s)) ∧
    (s.seq.upc = 0x00#8 → ∀ (w : BitVec 64) (rest : List HostInput), s.inputs = .txn w :: rest →
      decodeTxn w = .ok i → s.run ≠ .running ∨ s.hostTurn = true →
      step s = complete (exec i { s with
        inputs := rest, hostTurn := Config.hostFirst s.tick, tick := s.tick + 1 })) ∧
    (s.seq.upc = 0x00#8 → ∀ (write : Bool) (off : BitVec 16) (v : BitVec 32) (rest : List HostInput),
      s.inputs = .access 4 write off v :: rest → s.run ≠ .running ∨ s.hostTurn = true →
      step s = complete (exec (if write then .wr off v else .rd off) { s with
        inputs := rest, hostTurn := Config.hostFirst s.tick, tick := s.tick + 1 })) ∧
    (s.seq.upc = 0x00#8 → s.run = .running → s.inputs = [] ∨ s.hostTurn = false →
      step s = complete (exec .psRepeat { s with
        seq := { s.seq with upc := 0x20#8 }, hostTurn := Config.hostFirst s.tick, tick := s.tick + 1 })) ∧
    (s.seq.upc = 0x00#8 → s.run ≠ .running → s.inputs = [] → step s = .next s)

/-- An engine transition, which is 59 steps of the machine, does what STEP does, except that the run stays RUNNING if
it goes on (R148, R49); the 59 steps are this model's grain (log 1), and the schedule's fields are its own (log 2). -/
def Obligations.EngineTransitionIsOneSample : Prop :=
  ∀ s : State, s.seq.upc = 0x00#8 → s.run = .running → s.inputs = [] ∨ s.hostTurn = false →
    ∃ t, exec .step { s with run := .ready } = .next t ∧
      Host.Core.run Sys2Proof.core 59 s = .next { t with
        run := if t.syn.gen then .running else .done, hostTurn := Config.hostFirst s.tick, tick := s.tick + 1 }

/-- The state after reset meets the invariant. -/
def Obligations.InvariantAtReset : Prop := Inv State.reset

/-- Every step from a state that meets the invariant gives a state that meets it. -/
def Obligations.InvariantKeptByEveryStep : Prop := ∀ s t : State, Inv s → step s = .next t → Inv t

/-- Every instruction, in every state, keeps the canonical form of memory, and so does every step. The form is the
model's own representation of DL and NT, and no rule of the spec speaks of it (log 16). -/
def Obligations.MemoryStaysCanonical : Prop :=
  ∀ s t : State, s.mem.wf = true →
    (∀ i : Instr, exec i s = .next t → t.mem.wf = true) ∧ (step s = .next t → t.mem.wf = true)

/-- With the host silent, a running run ends within 59 steps for each sample that is left of CAPACITY (R154, R362); that
a sample is 59 steps is this model's grain (log 1). -/
def Obligations.RunEndsWithinCapacity : Prop :=
  ∀ s : State, s.seq.upc = 0x00#8 → s.run = .running → s.inputs = [] → s.sampleCount.toNat < 441000 →
    ∃ k t, k ≤ 59 * (441000 - s.sampleCount.toNat) ∧ Host.Core.run Sys2Proof.core k s = .next t ∧ t.run = .done ∧
      t.sampleCount.toNat ≤ 441000 ∧ t.syn.gen = false

/-- With another waveform than noise, a sample depends on neither the random source nor the noise table, and makes no
draw (R155, R263). -/
def Obligations.OtherWaveformsIgnoreNoise : Prop :=
  ∀ (s : State) (m : Memory) (r : RngSource), s.run = .ready → s.prm.waveType ≠ 3#32 → s.mem.wf = true →
    m.wf = true → (∀ i, dlRead m i = dlRead s.mem i) →
    ∃ t t', exec .step s = .next t ∧ exec .step { s with mem := m, rng := r } = .next t' ∧
      t' = { t with mem := t'.mem, rng := r } ∧ t.rng = s.rng ∧ ∀ i, dlRead t'.mem i = dlRead t.mem i

/-- The output port has no retraction: a step appends at most one event (R302, R351). -/
def Obligations.OutputPortIsAppendOnly : Prop :=
  ∀ s t : State, step s = .next t → t.emitted = s.emitted ∨ ∃ e, t.emitted = e :: s.emitted

/-- After reset every offset of the window reads its reset value, and `upc` and `si` are 0 (R350, R53). -/
def Obligations.ResetValues : Prop :=
  State.reset.seq.upc = 0x00#8 ∧ State.reset.seq.si = 0#3 ∧ State.reset.emitted = [] ∧
  ∀ off : BitVec 16, alignedOffset off = true → exec (.rd off) State.reset = .next { State.reset with
    hostRdata := if off = 0x070#16 then 44100#32 else if off = 0x074#16 then 0x00000120#32
      else if off = 0x078#16 then 441000#32 else if off = 0x07C#16 then 1#32 else 0#32 }

/-- Reset between transitions puts the block in its reset state and retracts no sample (R350, R351). What stands
outside the block stays, which is the model's choice for the host's side (log 19); that the temporaries, to which the
spec gives no reset value, become 0 is its choice too (log 5). -/
def Obligations.PowerOnResetBetweenTransitions : Prop :=
  ∀ (s : State) (rest : List HostInput), s.seq.upc = 0x00#8 → s.inputs = .reset :: rest →
    s.run ≠ .running ∨ s.hostTurn = true →
    step s = .next { State.reset with
      emitted := s.emitted, rng := s.rng, inputs := rest, hostRdata := s.hostRdata,
      hostTurn := Config.hostFirst s.tick, tick := s.tick + 1 }

/-! ## Arithmetic -/

/-- R13: the operations on finite numbers are correctly rounded, in both formats. R13, R18, R322: at the default
NAN_BITS, what they give on NaN and infinite operands, on a zero divisor and for a zero result. The default NaN of
binary64 and its quieting are the model's, taken from the family (log 8); R18 gives those of binary32. -/
def Obligations.ArithmeticRoundsToNearest : Prop :=
  (∀ P : Params,
    (∀ a b : F32, binary32.finite a.toNat → binary32.finite b.toNat →
      binary32.rounds (binary32.value a.toNat + binary32.value b.toNat) (add32 P a b).toNat ∧
      binary32.rounds (binary32.value a.toNat - binary32.value b.toNat) (sub32 P a b).toNat ∧
      binary32.rounds (binary32.value a.toNat * binary32.value b.toNat) (mul32 P a b).toNat ∧
      (binary32.value b.toNat ≠ 0 →
        binary32.rounds (binary32.value a.toNat / binary32.value b.toNat) (div32 P a b).toNat)) ∧
    ∀ a b : F64, binary64.finite a.toNat → binary64.finite b.toNat →
      binary64.rounds (binary64.value a.toNat + binary64.value b.toNat) (add64 P a b).toNat ∧
      binary64.rounds (binary64.value a.toNat - binary64.value b.toNat) (sub64 P a b).toNat ∧
      binary64.rounds (binary64.value a.toNat * binary64.value b.toNat) (mul64 P a b).toNat ∧
      (binary64.value b.toNat ≠ 0 →
        binary64.rounds (binary64.value a.toNat / binary64.value b.toNat) (div64 P a b).toNat)) ∧
  binary32.SpecialResults 0x00400000#32 0xFFC00000#32
    (add32 specParams) (sub32 specParams) (mul32 specParams) (div32 specParams) ∧
  binary64.SpecialResults 0x0008000000000000#64 0xFFF8000000000000#64
    (add64 specParams) (sub64 specParams) (mul64 specParams) (div64 specParams)

/-- Widening and squaring a binary32 number in binary64 are exact, and narrowing rounds (R13, R15). Both keep an infinity
and the sign. At the default NAN_BITS, narrowing a NaN keeps its sign and top payload bits, quieted (R18), and so does
widening one, which is the model's choice (log 8). The default SIN32 is the correctly rounded sine wherever its enclosure
settles the rounding, a zero is its own sine, that of a NaN is quieted, and that of an infinity is the NaN of an invalid
operation (R8, R17, R18; log 7). -/
def Obligations.WideningAndSquareAreExact : Prop :=
  (∀ P : Params,
    (∀ x : F32, binary32.finite x.toNat →
      binary64.finite (f64 P x).toNat ∧ binary64.value (f64 P x).toNat = binary32.value x.toNat ∧
      binary64.finite (sq64 P x).toNat ∧ binary64.value (sq64 P x).toNat = binary32.value x.toNat ^ 2 ∧
      binary64.neg (sq64 P x).toNat = false ∧ cvt32 P (f64 P x) = x) ∧
    (∀ y : F64, binary64.finite y.toNat →
      binary32.rounds (binary64.value y.toNat) (cvt32 P y).toNat ∧
      binary32.neg (cvt32 P y).toNat = binary64.neg y.toNat) ∧
    f64 P 0x7F800000#32 = 0x7FF0000000000000#64 ∧ f64 P 0xFF800000#32 = 0xFFF0000000000000#64 ∧
    cvt32 P 0x7FF0000000000000#64 = 0x7F800000#32 ∧ cvt32 P 0xFFF0000000000000#64 = 0xFF800000#32) ∧
  (∀ y : F64, isNan64 y = true →
    cvt32 specParams y = y.extractLsb' 63 1 ++ 0xFF#8 ++ (y.extractLsb' 29 23 ||| 0x400000#23)) ∧
  (∀ x : F32, isNan32 x = true →
    f64 specParams x = x.extractLsb' 31 1 ++ 0x7FF#11 ++ (x.extractLsb' 0 23 ||| 0x400000#23) ++ 0#29 ∧
    specParams.sin32 x = x ||| 0x00400000#32) ∧
  (∀ x : F32, binary32.finite x.toNat →
    (binary32.value x.toNat = 0 → specParams.sin32 x = x) ∧
    if sineSettled x = true then
      binary32.nearestReal (Real.sin (binary32.value x.toNat)) (specParams.sin32 x).toNat
    else specParams.sin32 x = Config.sineOpen x) ∧
  specParams.sin32 0x7F800000#32 = 0xFFC00000#32 ∧ specParams.sin32 0xFF800000#32 = 0xFFC00000#32

/-- Comparisons follow the order of the extended reals, both zeros being equal, and every ordered comparison with a NaN
is false: `<`, `==` and `>=` on f32, and `<` on f64, the one PS_SLIDE uses (R14). -/
def Obligations.ComparisonsFollowTheValues : Prop :=
  (∀ a b : F32,
    (isNan32 a = true ∨ isNan32 b = true → lt32 a b = false ∧ eq32 a b = false ∧ ge32 a b = false) ∧
    (isNan32 a = false → isNan32 b = false →
      (lt32 a b = true ↔ binary32.extended a.toNat < binary32.extended b.toNat) ∧
      (eq32 a b = true ↔ binary32.extended a.toNat = binary32.extended b.toNat) ∧
      (ge32 a b = true ↔ binary32.extended b.toNat ≤ binary32.extended a.toNat))) ∧
  ∀ a b : F64,
    (isNan64 a = true ∨ isNan64 b = true → lt64 a b = false) ∧
    (isNan64 a = false → isNan64 b = false →
      (lt64 a b = true ↔ binary64.extended a.toNat < binary64.extended b.toNat))

/-- `trunc_i32` of a number of either format rounds toward zero where the result fits, and is CVT_OOR everywhere else,
whose default is 0x80000000; `i2f32` rounds an i32 to the nearest f32 (R16). -/
def Obligations.TruncationIsTowardZero : Prop :=
  (∀ (P : Params) (y : F64), binary64.truncates P.cvtOor y.toNat (trunc64 P y)) ∧
  (∀ (P : Params) (x : F32), binary32.truncates P.cvtOor x.toNat (trunc32 P x)) ∧
  specParams.cvtOor = 0x80000000#32 ∧
  ∀ n : I32, binary32.rounds n.toInt (i2f32 n).toNat ∧ binary32.neg (i2f32 n).toNat = decide (n.toInt < 0)
end

