-- ==== Sys2Proof/Laws/State.lean ====
section
/-! SUPPORT. What each update leaves in each field of State: one lemma per field per update, true by `rfl`, so that no
proof unfolds a record update. -/

namespace Sys2Proof.Machine

@[simp] theorem State.setPrm_prm (s : State) (p : Prm) : (s.setPrm p).prm = p := rfl
@[simp] theorem State.setPrm_run (s : State) (p : Prm) : (s.setPrm p).run = s.run := rfl
@[simp] theorem State.setPrm_termEnv (s : State) (p : Prm) : (s.setPrm p).termEnv = s.termEnv := rfl
@[simp] theorem State.setPrm_termFloor (s : State) (p : Prm) : (s.setPrm p).termFloor = s.termFloor := rfl
@[simp] theorem State.setPrm_termCap (s : State) (p : Prm) : (s.setPrm p).termCap = s.termCap := rfl
@[simp] theorem State.setPrm_cmdErr (s : State) (p : Prm) : (s.setPrm p).cmdErr = s.cmdErr := rfl
@[simp] theorem State.setPrm_wErr (s : State) (p : Prm) : (s.setPrm p).wErr = s.wErr := rfl
@[simp] theorem State.setPrm_sampleCount (s : State) (p : Prm) : (s.setPrm p).sampleCount = s.sampleCount := rfl
@[simp] theorem State.setPrm_sampleOut (s : State) (p : Prm) : (s.setPrm p).sampleOut = s.sampleOut := rfl
@[simp] theorem State.setPrm_syn (s : State) (p : Prm) : (s.setPrm p).syn = s.syn := rfl
@[simp] theorem State.setPrm_mem (s : State) (p : Prm) : (s.setPrm p).mem = s.mem := rfl
@[simp] theorem State.setPrm_seq (s : State) (p : Prm) : (s.setPrm p).seq = s.seq := rfl
@[simp] theorem State.setPrm_emitted (s : State) (p : Prm) : (s.setPrm p).emitted = s.emitted := rfl
@[simp] theorem State.setPrm_rng (s : State) (p : Prm) : (s.setPrm p).rng = s.rng := rfl
@[simp] theorem State.setPrm_inputs (s : State) (p : Prm) : (s.setPrm p).inputs = s.inputs := rfl
@[simp] theorem State.setPrm_hostRdata (s : State) (p : Prm) : (s.setPrm p).hostRdata = s.hostRdata := rfl
@[simp] theorem State.setPrm_hostTurn (s : State) (p : Prm) : (s.setPrm p).hostTurn = s.hostTurn := rfl
@[simp] theorem State.setPrm_tick (s : State) (p : Prm) : (s.setPrm p).tick = s.tick := rfl

@[simp] theorem State.setRun_prm (s : State) (r : RunState) : (s.setRun r).prm = s.prm := rfl
@[simp] theorem State.setRun_run (s : State) (r : RunState) : (s.setRun r).run = r := rfl
@[simp] theorem State.setRun_termEnv (s : State) (r : RunState) : (s.setRun r).termEnv = s.termEnv := rfl
@[simp] theorem State.setRun_termFloor (s : State) (r : RunState) : (s.setRun r).termFloor = s.termFloor := rfl
@[simp] theorem State.setRun_termCap (s : State) (r : RunState) : (s.setRun r).termCap = s.termCap := rfl
@[simp] theorem State.setRun_cmdErr (s : State) (r : RunState) : (s.setRun r).cmdErr = s.cmdErr := rfl
@[simp] theorem State.setRun_wErr (s : State) (r : RunState) : (s.setRun r).wErr = s.wErr := rfl
@[simp] theorem State.setRun_sampleCount (s : State) (r : RunState) : (s.setRun r).sampleCount = s.sampleCount := rfl
@[simp] theorem State.setRun_sampleOut (s : State) (r : RunState) : (s.setRun r).sampleOut = s.sampleOut := rfl
@[simp] theorem State.setRun_syn (s : State) (r : RunState) : (s.setRun r).syn = s.syn := rfl
@[simp] theorem State.setRun_mem (s : State) (r : RunState) : (s.setRun r).mem = s.mem := rfl
@[simp] theorem State.setRun_seq (s : State) (r : RunState) : (s.setRun r).seq = s.seq := rfl
@[simp] theorem State.setRun_emitted (s : State) (r : RunState) : (s.setRun r).emitted = s.emitted := rfl
@[simp] theorem State.setRun_rng (s : State) (r : RunState) : (s.setRun r).rng = s.rng := rfl
@[simp] theorem State.setRun_inputs (s : State) (r : RunState) : (s.setRun r).inputs = s.inputs := rfl
@[simp] theorem State.setRun_hostRdata (s : State) (r : RunState) : (s.setRun r).hostRdata = s.hostRdata := rfl
@[simp] theorem State.setRun_hostTurn (s : State) (r : RunState) : (s.setRun r).hostTurn = s.hostTurn := rfl
@[simp] theorem State.setRun_tick (s : State) (r : RunState) : (s.setRun r).tick = s.tick := rfl

@[simp] theorem State.setSyn_prm (s : State) (y : Synth) : (s.setSyn y).prm = s.prm := rfl
@[simp] theorem State.setSyn_run (s : State) (y : Synth) : (s.setSyn y).run = s.run := rfl
@[simp] theorem State.setSyn_termEnv (s : State) (y : Synth) : (s.setSyn y).termEnv = s.termEnv := rfl
@[simp] theorem State.setSyn_termFloor (s : State) (y : Synth) : (s.setSyn y).termFloor = s.termFloor := rfl
@[simp] theorem State.setSyn_termCap (s : State) (y : Synth) : (s.setSyn y).termCap = s.termCap := rfl
@[simp] theorem State.setSyn_cmdErr (s : State) (y : Synth) : (s.setSyn y).cmdErr = s.cmdErr := rfl
@[simp] theorem State.setSyn_wErr (s : State) (y : Synth) : (s.setSyn y).wErr = s.wErr := rfl
@[simp] theorem State.setSyn_sampleCount (s : State) (y : Synth) : (s.setSyn y).sampleCount = s.sampleCount := rfl
@[simp] theorem State.setSyn_sampleOut (s : State) (y : Synth) : (s.setSyn y).sampleOut = s.sampleOut := rfl
@[simp] theorem State.setSyn_syn (s : State) (y : Synth) : (s.setSyn y).syn = y := rfl
@[simp] theorem State.setSyn_mem (s : State) (y : Synth) : (s.setSyn y).mem = s.mem := rfl
@[simp] theorem State.setSyn_seq (s : State) (y : Synth) : (s.setSyn y).seq = s.seq := rfl
@[simp] theorem State.setSyn_emitted (s : State) (y : Synth) : (s.setSyn y).emitted = s.emitted := rfl
@[simp] theorem State.setSyn_rng (s : State) (y : Synth) : (s.setSyn y).rng = s.rng := rfl
@[simp] theorem State.setSyn_inputs (s : State) (y : Synth) : (s.setSyn y).inputs = s.inputs := rfl
@[simp] theorem State.setSyn_hostRdata (s : State) (y : Synth) : (s.setSyn y).hostRdata = s.hostRdata := rfl
@[simp] theorem State.setSyn_hostTurn (s : State) (y : Synth) : (s.setSyn y).hostTurn = s.hostTurn := rfl
@[simp] theorem State.setSyn_tick (s : State) (y : Synth) : (s.setSyn y).tick = s.tick := rfl

@[simp] theorem State.setMem_prm (s : State) (m : Memory) : (s.setMem m).prm = s.prm := rfl
@[simp] theorem State.setMem_run (s : State) (m : Memory) : (s.setMem m).run = s.run := rfl
@[simp] theorem State.setMem_termEnv (s : State) (m : Memory) : (s.setMem m).termEnv = s.termEnv := rfl
@[simp] theorem State.setMem_termFloor (s : State) (m : Memory) : (s.setMem m).termFloor = s.termFloor := rfl
@[simp] theorem State.setMem_termCap (s : State) (m : Memory) : (s.setMem m).termCap = s.termCap := rfl
@[simp] theorem State.setMem_cmdErr (s : State) (m : Memory) : (s.setMem m).cmdErr = s.cmdErr := rfl
@[simp] theorem State.setMem_wErr (s : State) (m : Memory) : (s.setMem m).wErr = s.wErr := rfl
@[simp] theorem State.setMem_sampleCount (s : State) (m : Memory) : (s.setMem m).sampleCount = s.sampleCount := rfl
@[simp] theorem State.setMem_sampleOut (s : State) (m : Memory) : (s.setMem m).sampleOut = s.sampleOut := rfl
@[simp] theorem State.setMem_syn (s : State) (m : Memory) : (s.setMem m).syn = s.syn := rfl
@[simp] theorem State.setMem_mem (s : State) (m : Memory) : (s.setMem m).mem = m := rfl
@[simp] theorem State.setMem_seq (s : State) (m : Memory) : (s.setMem m).seq = s.seq := rfl
@[simp] theorem State.setMem_emitted (s : State) (m : Memory) : (s.setMem m).emitted = s.emitted := rfl
@[simp] theorem State.setMem_rng (s : State) (m : Memory) : (s.setMem m).rng = s.rng := rfl
@[simp] theorem State.setMem_inputs (s : State) (m : Memory) : (s.setMem m).inputs = s.inputs := rfl
@[simp] theorem State.setMem_hostRdata (s : State) (m : Memory) : (s.setMem m).hostRdata = s.hostRdata := rfl
@[simp] theorem State.setMem_hostTurn (s : State) (m : Memory) : (s.setMem m).hostTurn = s.hostTurn := rfl
@[simp] theorem State.setMem_tick (s : State) (m : Memory) : (s.setMem m).tick = s.tick := rfl

@[simp] theorem State.setSeq_prm (s : State) (q : Seq) : (s.setSeq q).prm = s.prm := rfl
@[simp] theorem State.setSeq_run (s : State) (q : Seq) : (s.setSeq q).run = s.run := rfl
@[simp] theorem State.setSeq_termEnv (s : State) (q : Seq) : (s.setSeq q).termEnv = s.termEnv := rfl
@[simp] theorem State.setSeq_termFloor (s : State) (q : Seq) : (s.setSeq q).termFloor = s.termFloor := rfl
@[simp] theorem State.setSeq_termCap (s : State) (q : Seq) : (s.setSeq q).termCap = s.termCap := rfl
@[simp] theorem State.setSeq_cmdErr (s : State) (q : Seq) : (s.setSeq q).cmdErr = s.cmdErr := rfl
@[simp] theorem State.setSeq_wErr (s : State) (q : Seq) : (s.setSeq q).wErr = s.wErr := rfl
@[simp] theorem State.setSeq_sampleCount (s : State) (q : Seq) : (s.setSeq q).sampleCount = s.sampleCount := rfl
@[simp] theorem State.setSeq_sampleOut (s : State) (q : Seq) : (s.setSeq q).sampleOut = s.sampleOut := rfl
@[simp] theorem State.setSeq_syn (s : State) (q : Seq) : (s.setSeq q).syn = s.syn := rfl
@[simp] theorem State.setSeq_mem (s : State) (q : Seq) : (s.setSeq q).mem = s.mem := rfl
@[simp] theorem State.setSeq_seq (s : State) (q : Seq) : (s.setSeq q).seq = q := rfl
@[simp] theorem State.setSeq_emitted (s : State) (q : Seq) : (s.setSeq q).emitted = s.emitted := rfl
@[simp] theorem State.setSeq_rng (s : State) (q : Seq) : (s.setSeq q).rng = s.rng := rfl
@[simp] theorem State.setSeq_inputs (s : State) (q : Seq) : (s.setSeq q).inputs = s.inputs := rfl
@[simp] theorem State.setSeq_hostRdata (s : State) (q : Seq) : (s.setSeq q).hostRdata = s.hostRdata := rfl
@[simp] theorem State.setSeq_hostTurn (s : State) (q : Seq) : (s.setSeq q).hostTurn = s.hostTurn := rfl
@[simp] theorem State.setSeq_tick (s : State) (q : Seq) : (s.setSeq q).tick = s.tick := rfl

@[simp] theorem State.setRng_prm (s : State) (r : RngSource) : (s.setRng r).prm = s.prm := rfl
@[simp] theorem State.setRng_run (s : State) (r : RngSource) : (s.setRng r).run = s.run := rfl
@[simp] theorem State.setRng_termEnv (s : State) (r : RngSource) : (s.setRng r).termEnv = s.termEnv := rfl
@[simp] theorem State.setRng_termFloor (s : State) (r : RngSource) : (s.setRng r).termFloor = s.termFloor := rfl
@[simp] theorem State.setRng_termCap (s : State) (r : RngSource) : (s.setRng r).termCap = s.termCap := rfl
@[simp] theorem State.setRng_cmdErr (s : State) (r : RngSource) : (s.setRng r).cmdErr = s.cmdErr := rfl
@[simp] theorem State.setRng_wErr (s : State) (r : RngSource) : (s.setRng r).wErr = s.wErr := rfl
@[simp] theorem State.setRng_sampleCount (s : State) (r : RngSource) : (s.setRng r).sampleCount = s.sampleCount := rfl
@[simp] theorem State.setRng_sampleOut (s : State) (r : RngSource) : (s.setRng r).sampleOut = s.sampleOut := rfl
@[simp] theorem State.setRng_syn (s : State) (r : RngSource) : (s.setRng r).syn = s.syn := rfl
@[simp] theorem State.setRng_mem (s : State) (r : RngSource) : (s.setRng r).mem = s.mem := rfl
@[simp] theorem State.setRng_seq (s : State) (r : RngSource) : (s.setRng r).seq = s.seq := rfl
@[simp] theorem State.setRng_emitted (s : State) (r : RngSource) : (s.setRng r).emitted = s.emitted := rfl
@[simp] theorem State.setRng_rng (s : State) (r : RngSource) : (s.setRng r).rng = r := rfl
@[simp] theorem State.setRng_inputs (s : State) (r : RngSource) : (s.setRng r).inputs = s.inputs := rfl
@[simp] theorem State.setRng_hostRdata (s : State) (r : RngSource) : (s.setRng r).hostRdata = s.hostRdata := rfl
@[simp] theorem State.setRng_hostTurn (s : State) (r : RngSource) : (s.setRng r).hostTurn = s.hostTurn := rfl
@[simp] theorem State.setRng_tick (s : State) (r : RngSource) : (s.setRng r).tick = s.tick := rfl

@[simp] theorem State.setUpc_prm (s : State) (u : BitVec 8) : (s.setUpc u).prm = s.prm := rfl
@[simp] theorem State.setUpc_run (s : State) (u : BitVec 8) : (s.setUpc u).run = s.run := rfl
@[simp] theorem State.setUpc_termEnv (s : State) (u : BitVec 8) : (s.setUpc u).termEnv = s.termEnv := rfl
@[simp] theorem State.setUpc_termFloor (s : State) (u : BitVec 8) : (s.setUpc u).termFloor = s.termFloor := rfl
@[simp] theorem State.setUpc_termCap (s : State) (u : BitVec 8) : (s.setUpc u).termCap = s.termCap := rfl
@[simp] theorem State.setUpc_cmdErr (s : State) (u : BitVec 8) : (s.setUpc u).cmdErr = s.cmdErr := rfl
@[simp] theorem State.setUpc_wErr (s : State) (u : BitVec 8) : (s.setUpc u).wErr = s.wErr := rfl
@[simp] theorem State.setUpc_sampleCount (s : State) (u : BitVec 8) : (s.setUpc u).sampleCount = s.sampleCount := rfl
@[simp] theorem State.setUpc_sampleOut (s : State) (u : BitVec 8) : (s.setUpc u).sampleOut = s.sampleOut := rfl
@[simp] theorem State.setUpc_syn (s : State) (u : BitVec 8) : (s.setUpc u).syn = s.syn := rfl
@[simp] theorem State.setUpc_mem (s : State) (u : BitVec 8) : (s.setUpc u).mem = s.mem := rfl
@[simp] theorem State.setUpc_seq (s : State) (u : BitVec 8) : (s.setUpc u).seq = { s.seq with upc := u } := rfl
@[simp] theorem State.setUpc_emitted (s : State) (u : BitVec 8) : (s.setUpc u).emitted = s.emitted := rfl
@[simp] theorem State.setUpc_rng (s : State) (u : BitVec 8) : (s.setUpc u).rng = s.rng := rfl
@[simp] theorem State.setUpc_inputs (s : State) (u : BitVec 8) : (s.setUpc u).inputs = s.inputs := rfl
@[simp] theorem State.setUpc_hostRdata (s : State) (u : BitVec 8) : (s.setUpc u).hostRdata = s.hostRdata := rfl
@[simp] theorem State.setUpc_hostTurn (s : State) (u : BitVec 8) : (s.setUpc u).hostTurn = s.hostTurn := rfl
@[simp] theorem State.setUpc_tick (s : State) (u : BitVec 8) : (s.setUpc u).tick = s.tick := rfl

@[simp] theorem State.setSi_prm (s : State) (k : BitVec 3) : (s.setSi k).prm = s.prm := rfl
@[simp] theorem State.setSi_run (s : State) (k : BitVec 3) : (s.setSi k).run = s.run := rfl
@[simp] theorem State.setSi_termEnv (s : State) (k : BitVec 3) : (s.setSi k).termEnv = s.termEnv := rfl
@[simp] theorem State.setSi_termFloor (s : State) (k : BitVec 3) : (s.setSi k).termFloor = s.termFloor := rfl
@[simp] theorem State.setSi_termCap (s : State) (k : BitVec 3) : (s.setSi k).termCap = s.termCap := rfl
@[simp] theorem State.setSi_cmdErr (s : State) (k : BitVec 3) : (s.setSi k).cmdErr = s.cmdErr := rfl
@[simp] theorem State.setSi_wErr (s : State) (k : BitVec 3) : (s.setSi k).wErr = s.wErr := rfl
@[simp] theorem State.setSi_sampleCount (s : State) (k : BitVec 3) : (s.setSi k).sampleCount = s.sampleCount := rfl
@[simp] theorem State.setSi_sampleOut (s : State) (k : BitVec 3) : (s.setSi k).sampleOut = s.sampleOut := rfl
@[simp] theorem State.setSi_syn (s : State) (k : BitVec 3) : (s.setSi k).syn = s.syn := rfl
@[simp] theorem State.setSi_mem (s : State) (k : BitVec 3) : (s.setSi k).mem = s.mem := rfl
@[simp] theorem State.setSi_seq (s : State) (k : BitVec 3) : (s.setSi k).seq = { s.seq with si := k } := rfl
@[simp] theorem State.setSi_emitted (s : State) (k : BitVec 3) : (s.setSi k).emitted = s.emitted := rfl
@[simp] theorem State.setSi_rng (s : State) (k : BitVec 3) : (s.setSi k).rng = s.rng := rfl
@[simp] theorem State.setSi_inputs (s : State) (k : BitVec 3) : (s.setSi k).inputs = s.inputs := rfl
@[simp] theorem State.setSi_hostRdata (s : State) (k : BitVec 3) : (s.setSi k).hostRdata = s.hostRdata := rfl
@[simp] theorem State.setSi_hostTurn (s : State) (k : BitVec 3) : (s.setSi k).hostTurn = s.hostTurn := rfl
@[simp] theorem State.setSi_tick (s : State) (k : BitVec 3) : (s.setSi k).tick = s.tick := rfl

@[simp] theorem State.setSample_prm (s : State) (v : F32) : (s.setSample v).prm = s.prm := rfl
@[simp] theorem State.setSample_run (s : State) (v : F32) : (s.setSample v).run = s.run := rfl
@[simp] theorem State.setSample_termEnv (s : State) (v : F32) : (s.setSample v).termEnv = s.termEnv := rfl
@[simp] theorem State.setSample_termFloor (s : State) (v : F32) : (s.setSample v).termFloor = s.termFloor := rfl
@[simp] theorem State.setSample_termCap (s : State) (v : F32) : (s.setSample v).termCap = s.termCap := rfl
@[simp] theorem State.setSample_cmdErr (s : State) (v : F32) : (s.setSample v).cmdErr = s.cmdErr := rfl
@[simp] theorem State.setSample_wErr (s : State) (v : F32) : (s.setSample v).wErr = s.wErr := rfl
@[simp] theorem State.setSample_sampleCount (s : State) (v : F32) : (s.setSample v).sampleCount = s.sampleCount := rfl
@[simp] theorem State.setSample_sampleOut (s : State) (v : F32) : (s.setSample v).sampleOut = s.sampleOut := rfl
@[simp] theorem State.setSample_syn (s : State) (v : F32) : (s.setSample v).syn = s.syn := rfl
@[simp] theorem State.setSample_mem (s : State) (v : F32) : (s.setSample v).mem = s.mem := rfl
@[simp] theorem State.setSample_seq (s : State) (v : F32) : (s.setSample v).seq = { s.seq with sample := v } := rfl
@[simp] theorem State.setSample_emitted (s : State) (v : F32) : (s.setSample v).emitted = s.emitted := rfl
@[simp] theorem State.setSample_rng (s : State) (v : F32) : (s.setSample v).rng = s.rng := rfl
@[simp] theorem State.setSample_inputs (s : State) (v : F32) : (s.setSample v).inputs = s.inputs := rfl
@[simp] theorem State.setSample_hostRdata (s : State) (v : F32) : (s.setSample v).hostRdata = s.hostRdata := rfl
@[simp] theorem State.setSample_hostTurn (s : State) (v : F32) : (s.setSample v).hostTurn = s.hostTurn := rfl
@[simp] theorem State.setSample_tick (s : State) (v : F32) : (s.setSample v).tick = s.tick := rfl

@[simp] theorem State.setSsample_prm (s : State) (v : F32) : (s.setSsample v).prm = s.prm := rfl
@[simp] theorem State.setSsample_run (s : State) (v : F32) : (s.setSsample v).run = s.run := rfl
@[simp] theorem State.setSsample_termEnv (s : State) (v : F32) : (s.setSsample v).termEnv = s.termEnv := rfl
@[simp] theorem State.setSsample_termFloor (s : State) (v : F32) : (s.setSsample v).termFloor = s.termFloor := rfl
@[simp] theorem State.setSsample_termCap (s : State) (v : F32) : (s.setSsample v).termCap = s.termCap := rfl
@[simp] theorem State.setSsample_cmdErr (s : State) (v : F32) : (s.setSsample v).cmdErr = s.cmdErr := rfl
@[simp] theorem State.setSsample_wErr (s : State) (v : F32) : (s.setSsample v).wErr = s.wErr := rfl
@[simp] theorem State.setSsample_sampleCount (s : State) (v : F32) : (s.setSsample v).sampleCount = s.sampleCount := rfl
@[simp] theorem State.setSsample_sampleOut (s : State) (v : F32) : (s.setSsample v).sampleOut = s.sampleOut := rfl
@[simp] theorem State.setSsample_syn (s : State) (v : F32) : (s.setSsample v).syn = s.syn := rfl
@[simp] theorem State.setSsample_mem (s : State) (v : F32) : (s.setSsample v).mem = s.mem := rfl
@[simp] theorem State.setSsample_seq (s : State) (v : F32) : (s.setSsample v).seq = { s.seq with ssample := v } := rfl
@[simp] theorem State.setSsample_emitted (s : State) (v : F32) : (s.setSsample v).emitted = s.emitted := rfl
@[simp] theorem State.setSsample_rng (s : State) (v : F32) : (s.setSsample v).rng = s.rng := rfl
@[simp] theorem State.setSsample_inputs (s : State) (v : F32) : (s.setSsample v).inputs = s.inputs := rfl
@[simp] theorem State.setSsample_hostRdata (s : State) (v : F32) : (s.setSsample v).hostRdata = s.hostRdata := rfl
@[simp] theorem State.setSsample_hostTurn (s : State) (v : F32) : (s.setSsample v).hostTurn = s.hostTurn := rfl
@[simp] theorem State.setSsample_tick (s : State) (v : F32) : (s.setSsample v).tick = s.tick := rfl

@[simp] theorem State.setRdata_prm (s : State) (v : BitVec 32) : (s.setRdata v).prm = s.prm := rfl
@[simp] theorem State.setRdata_run (s : State) (v : BitVec 32) : (s.setRdata v).run = s.run := rfl
@[simp] theorem State.setRdata_termEnv (s : State) (v : BitVec 32) : (s.setRdata v).termEnv = s.termEnv := rfl
@[simp] theorem State.setRdata_termFloor (s : State) (v : BitVec 32) : (s.setRdata v).termFloor = s.termFloor := rfl
@[simp] theorem State.setRdata_termCap (s : State) (v : BitVec 32) : (s.setRdata v).termCap = s.termCap := rfl
@[simp] theorem State.setRdata_cmdErr (s : State) (v : BitVec 32) : (s.setRdata v).cmdErr = s.cmdErr := rfl
@[simp] theorem State.setRdata_wErr (s : State) (v : BitVec 32) : (s.setRdata v).wErr = s.wErr := rfl
@[simp] theorem State.setRdata_sampleCount (s : State) (v : BitVec 32) : (s.setRdata v).sampleCount = s.sampleCount := rfl
@[simp] theorem State.setRdata_sampleOut (s : State) (v : BitVec 32) : (s.setRdata v).sampleOut = s.sampleOut := rfl
@[simp] theorem State.setRdata_syn (s : State) (v : BitVec 32) : (s.setRdata v).syn = s.syn := rfl
@[simp] theorem State.setRdata_mem (s : State) (v : BitVec 32) : (s.setRdata v).mem = s.mem := rfl
@[simp] theorem State.setRdata_seq (s : State) (v : BitVec 32) : (s.setRdata v).seq = s.seq := rfl
@[simp] theorem State.setRdata_emitted (s : State) (v : BitVec 32) : (s.setRdata v).emitted = s.emitted := rfl
@[simp] theorem State.setRdata_rng (s : State) (v : BitVec 32) : (s.setRdata v).rng = s.rng := rfl
@[simp] theorem State.setRdata_inputs (s : State) (v : BitVec 32) : (s.setRdata v).inputs = s.inputs := rfl
@[simp] theorem State.setRdata_hostRdata (s : State) (v : BitVec 32) : (s.setRdata v).hostRdata = v := rfl
@[simp] theorem State.setRdata_hostTurn (s : State) (v : BitVec 32) : (s.setRdata v).hostTurn = s.hostTurn := rfl
@[simp] theorem State.setRdata_tick (s : State) (v : BitVec 32) : (s.setRdata v).tick = s.tick := rfl

@[simp] theorem refuseCommand_prm (s : State) : (refuseCommand s).prm = s.prm := rfl
@[simp] theorem refuseCommand_run (s : State) : (refuseCommand s).run = s.run := rfl
@[simp] theorem refuseCommand_termEnv (s : State) : (refuseCommand s).termEnv = s.termEnv := rfl
@[simp] theorem refuseCommand_termFloor (s : State) : (refuseCommand s).termFloor = s.termFloor := rfl
@[simp] theorem refuseCommand_termCap (s : State) : (refuseCommand s).termCap = s.termCap := rfl
@[simp] theorem refuseCommand_cmdErr (s : State) : (refuseCommand s).cmdErr = true := rfl
@[simp] theorem refuseCommand_wErr (s : State) : (refuseCommand s).wErr = s.wErr := rfl
@[simp] theorem refuseCommand_sampleCount (s : State) : (refuseCommand s).sampleCount = s.sampleCount := rfl
@[simp] theorem refuseCommand_sampleOut (s : State) : (refuseCommand s).sampleOut = s.sampleOut := rfl
@[simp] theorem refuseCommand_syn (s : State) : (refuseCommand s).syn = s.syn := rfl
@[simp] theorem refuseCommand_mem (s : State) : (refuseCommand s).mem = s.mem := rfl
@[simp] theorem refuseCommand_seq (s : State) : (refuseCommand s).seq = s.seq := rfl
@[simp] theorem refuseCommand_emitted (s : State) : (refuseCommand s).emitted = s.emitted := rfl
@[simp] theorem refuseCommand_rng (s : State) : (refuseCommand s).rng = s.rng := rfl
@[simp] theorem refuseCommand_inputs (s : State) : (refuseCommand s).inputs = s.inputs := rfl
@[simp] theorem refuseCommand_hostRdata (s : State) : (refuseCommand s).hostRdata = s.hostRdata := rfl
@[simp] theorem refuseCommand_hostTurn (s : State) : (refuseCommand s).hostTurn = s.hostTurn := rfl
@[simp] theorem refuseCommand_tick (s : State) : (refuseCommand s).tick = s.tick := rfl

@[simp] theorem refusePrmWrite_prm (s : State) : (refusePrmWrite s).prm = s.prm := rfl
@[simp] theorem refusePrmWrite_run (s : State) : (refusePrmWrite s).run = s.run := rfl
@[simp] theorem refusePrmWrite_termEnv (s : State) : (refusePrmWrite s).termEnv = s.termEnv := rfl
@[simp] theorem refusePrmWrite_termFloor (s : State) : (refusePrmWrite s).termFloor = s.termFloor := rfl
@[simp] theorem refusePrmWrite_termCap (s : State) : (refusePrmWrite s).termCap = s.termCap := rfl
@[simp] theorem refusePrmWrite_cmdErr (s : State) : (refusePrmWrite s).cmdErr = s.cmdErr := rfl
@[simp] theorem refusePrmWrite_wErr (s : State) : (refusePrmWrite s).wErr = true := rfl
@[simp] theorem refusePrmWrite_sampleCount (s : State) : (refusePrmWrite s).sampleCount = s.sampleCount := rfl
@[simp] theorem refusePrmWrite_sampleOut (s : State) : (refusePrmWrite s).sampleOut = s.sampleOut := rfl
@[simp] theorem refusePrmWrite_syn (s : State) : (refusePrmWrite s).syn = s.syn := rfl
@[simp] theorem refusePrmWrite_mem (s : State) : (refusePrmWrite s).mem = s.mem := rfl
@[simp] theorem refusePrmWrite_seq (s : State) : (refusePrmWrite s).seq = s.seq := rfl
@[simp] theorem refusePrmWrite_emitted (s : State) : (refusePrmWrite s).emitted = s.emitted := rfl
@[simp] theorem refusePrmWrite_rng (s : State) : (refusePrmWrite s).rng = s.rng := rfl
@[simp] theorem refusePrmWrite_inputs (s : State) : (refusePrmWrite s).inputs = s.inputs := rfl
@[simp] theorem refusePrmWrite_hostRdata (s : State) : (refusePrmWrite s).hostRdata = s.hostRdata := rfl
@[simp] theorem refusePrmWrite_hostTurn (s : State) : (refusePrmWrite s).hostTurn = s.hostTurn := rfl
@[simp] theorem refusePrmWrite_tick (s : State) : (refusePrmWrite s).tick = s.tick := rfl

@[simp] theorem terminateEnv_prm (s : State) : (terminateEnv s).prm = s.prm := rfl
@[simp] theorem terminateEnv_run (s : State) : (terminateEnv s).run = s.run := rfl
@[simp] theorem terminateEnv_termEnv (s : State) : (terminateEnv s).termEnv = true := rfl
@[simp] theorem terminateEnv_termFloor (s : State) : (terminateEnv s).termFloor = s.termFloor := rfl
@[simp] theorem terminateEnv_termCap (s : State) : (terminateEnv s).termCap = s.termCap := rfl
@[simp] theorem terminateEnv_cmdErr (s : State) : (terminateEnv s).cmdErr = s.cmdErr := rfl
@[simp] theorem terminateEnv_wErr (s : State) : (terminateEnv s).wErr = s.wErr := rfl
@[simp] theorem terminateEnv_sampleCount (s : State) : (terminateEnv s).sampleCount = s.sampleCount := rfl
@[simp] theorem terminateEnv_sampleOut (s : State) : (terminateEnv s).sampleOut = s.sampleOut := rfl
@[simp] theorem terminateEnv_syn (s : State) : (terminateEnv s).syn = { s.syn with gen := false } := rfl
@[simp] theorem terminateEnv_mem (s : State) : (terminateEnv s).mem = s.mem := rfl
@[simp] theorem terminateEnv_seq (s : State) : (terminateEnv s).seq = s.seq := rfl
@[simp] theorem terminateEnv_emitted (s : State) : (terminateEnv s).emitted = s.emitted := rfl
@[simp] theorem terminateEnv_rng (s : State) : (terminateEnv s).rng = s.rng := rfl
@[simp] theorem terminateEnv_inputs (s : State) : (terminateEnv s).inputs = s.inputs := rfl
@[simp] theorem terminateEnv_hostRdata (s : State) : (terminateEnv s).hostRdata = s.hostRdata := rfl
@[simp] theorem terminateEnv_hostTurn (s : State) : (terminateEnv s).hostTurn = s.hostTurn := rfl
@[simp] theorem terminateEnv_tick (s : State) : (terminateEnv s).tick = s.tick := rfl

@[simp] theorem terminateFloor_prm (s : State) : (terminateFloor s).prm = s.prm := rfl
@[simp] theorem terminateFloor_run (s : State) : (terminateFloor s).run = s.run := rfl
@[simp] theorem terminateFloor_termEnv (s : State) : (terminateFloor s).termEnv = s.termEnv := rfl
@[simp] theorem terminateFloor_termFloor (s : State) : (terminateFloor s).termFloor = true := rfl
@[simp] theorem terminateFloor_termCap (s : State) : (terminateFloor s).termCap = s.termCap := rfl
@[simp] theorem terminateFloor_cmdErr (s : State) : (terminateFloor s).cmdErr = s.cmdErr := rfl
@[simp] theorem terminateFloor_wErr (s : State) : (terminateFloor s).wErr = s.wErr := rfl
@[simp] theorem terminateFloor_sampleCount (s : State) : (terminateFloor s).sampleCount = s.sampleCount := rfl
@[simp] theorem terminateFloor_sampleOut (s : State) : (terminateFloor s).sampleOut = s.sampleOut := rfl
@[simp] theorem terminateFloor_syn (s : State) : (terminateFloor s).syn = { s.syn with gen := false } := rfl
@[simp] theorem terminateFloor_mem (s : State) : (terminateFloor s).mem = s.mem := rfl
@[simp] theorem terminateFloor_seq (s : State) : (terminateFloor s).seq = s.seq := rfl
@[simp] theorem terminateFloor_emitted (s : State) : (terminateFloor s).emitted = s.emitted := rfl
@[simp] theorem terminateFloor_rng (s : State) : (terminateFloor s).rng = s.rng := rfl
@[simp] theorem terminateFloor_inputs (s : State) : (terminateFloor s).inputs = s.inputs := rfl
@[simp] theorem terminateFloor_hostRdata (s : State) : (terminateFloor s).hostRdata = s.hostRdata := rfl
@[simp] theorem terminateFloor_hostTurn (s : State) : (terminateFloor s).hostTurn = s.hostTurn := rfl
@[simp] theorem terminateFloor_tick (s : State) : (terminateFloor s).tick = s.tick := rfl

@[simp] theorem terminateCap_prm (s : State) : (terminateCap s).prm = s.prm := rfl
@[simp] theorem terminateCap_run (s : State) : (terminateCap s).run = s.run := rfl
@[simp] theorem terminateCap_termEnv (s : State) : (terminateCap s).termEnv = s.termEnv := rfl
@[simp] theorem terminateCap_termFloor (s : State) : (terminateCap s).termFloor = s.termFloor := rfl
@[simp] theorem terminateCap_termCap (s : State) : (terminateCap s).termCap = true := rfl
@[simp] theorem terminateCap_cmdErr (s : State) : (terminateCap s).cmdErr = s.cmdErr := rfl
@[simp] theorem terminateCap_wErr (s : State) : (terminateCap s).wErr = s.wErr := rfl
@[simp] theorem terminateCap_sampleCount (s : State) : (terminateCap s).sampleCount = s.sampleCount := rfl
@[simp] theorem terminateCap_sampleOut (s : State) : (terminateCap s).sampleOut = s.sampleOut := rfl
@[simp] theorem terminateCap_syn (s : State) : (terminateCap s).syn = { s.syn with gen := false } := rfl
@[simp] theorem terminateCap_mem (s : State) : (terminateCap s).mem = s.mem := rfl
@[simp] theorem terminateCap_seq (s : State) : (terminateCap s).seq = s.seq := rfl
@[simp] theorem terminateCap_emitted (s : State) : (terminateCap s).emitted = s.emitted := rfl
@[simp] theorem terminateCap_rng (s : State) : (terminateCap s).rng = s.rng := rfl
@[simp] theorem terminateCap_inputs (s : State) : (terminateCap s).inputs = s.inputs := rfl
@[simp] theorem terminateCap_hostRdata (s : State) : (terminateCap s).hostRdata = s.hostRdata := rfl
@[simp] theorem terminateCap_hostTurn (s : State) : (terminateCap s).hostTurn = s.hostTurn := rfl
@[simp] theorem terminateCap_tick (s : State) : (terminateCap s).tick = s.tick := rfl

@[simp] theorem rngReseed_prm (s : State) (seed : I32) : (rngReseed seed s).prm = s.prm := rfl
@[simp] theorem rngReseed_run (s : State) (seed : I32) : (rngReseed seed s).run = s.run := rfl
@[simp] theorem rngReseed_termEnv (s : State) (seed : I32) : (rngReseed seed s).termEnv = s.termEnv := rfl
@[simp] theorem rngReseed_termFloor (s : State) (seed : I32) : (rngReseed seed s).termFloor = s.termFloor := rfl
@[simp] theorem rngReseed_termCap (s : State) (seed : I32) : (rngReseed seed s).termCap = s.termCap := rfl
@[simp] theorem rngReseed_cmdErr (s : State) (seed : I32) : (rngReseed seed s).cmdErr = s.cmdErr := rfl
@[simp] theorem rngReseed_wErr (s : State) (seed : I32) : (rngReseed seed s).wErr = s.wErr := rfl
@[simp] theorem rngReseed_sampleCount (s : State) (seed : I32) : (rngReseed seed s).sampleCount = s.sampleCount := rfl
@[simp] theorem rngReseed_sampleOut (s : State) (seed : I32) : (rngReseed seed s).sampleOut = s.sampleOut := rfl
@[simp] theorem rngReseed_syn (s : State) (seed : I32) : (rngReseed seed s).syn = s.syn := rfl
@[simp] theorem rngReseed_mem (s : State) (seed : I32) : (rngReseed seed s).mem = s.mem := rfl
@[simp] theorem rngReseed_seq (s : State) (seed : I32) : (rngReseed seed s).seq = s.seq := rfl
@[simp] theorem rngReseed_emitted (s : State) (seed : I32) : (rngReseed seed s).emitted = s.emitted := rfl
@[simp] theorem rngReseed_rng (s : State) (seed : I32) : (rngReseed seed s).rng = s.rng.reseed seed := rfl
@[simp] theorem rngReseed_inputs (s : State) (seed : I32) : (rngReseed seed s).inputs = s.inputs := rfl
@[simp] theorem rngReseed_hostRdata (s : State) (seed : I32) : (rngReseed seed s).hostRdata = s.hostRdata := rfl
@[simp] theorem rngReseed_hostTurn (s : State) (seed : I32) : (rngReseed seed s).hostTurn = s.hostTurn := rfl
@[simp] theorem rngReseed_tick (s : State) (seed : I32) : (rngReseed seed s).tick = s.tick := rfl

@[simp] theorem rngAmbient_prm (s : State) : (rngAmbient s).prm = s.prm := rfl
@[simp] theorem rngAmbient_run (s : State) : (rngAmbient s).run = s.run := rfl
@[simp] theorem rngAmbient_termEnv (s : State) : (rngAmbient s).termEnv = s.termEnv := rfl
@[simp] theorem rngAmbient_termFloor (s : State) : (rngAmbient s).termFloor = s.termFloor := rfl
@[simp] theorem rngAmbient_termCap (s : State) : (rngAmbient s).termCap = s.termCap := rfl
@[simp] theorem rngAmbient_cmdErr (s : State) : (rngAmbient s).cmdErr = s.cmdErr := rfl
@[simp] theorem rngAmbient_wErr (s : State) : (rngAmbient s).wErr = s.wErr := rfl
@[simp] theorem rngAmbient_sampleCount (s : State) : (rngAmbient s).sampleCount = s.sampleCount := rfl
@[simp] theorem rngAmbient_sampleOut (s : State) : (rngAmbient s).sampleOut = s.sampleOut := rfl
@[simp] theorem rngAmbient_syn (s : State) : (rngAmbient s).syn = s.syn := rfl
@[simp] theorem rngAmbient_mem (s : State) : (rngAmbient s).mem = s.mem := rfl
@[simp] theorem rngAmbient_seq (s : State) : (rngAmbient s).seq = s.seq := rfl
@[simp] theorem rngAmbient_emitted (s : State) : (rngAmbient s).emitted = s.emitted := rfl
@[simp] theorem rngAmbient_rng (s : State) : (rngAmbient s).rng = s.rng.ambient := rfl
@[simp] theorem rngAmbient_inputs (s : State) : (rngAmbient s).inputs = s.inputs := rfl
@[simp] theorem rngAmbient_hostRdata (s : State) : (rngAmbient s).hostRdata = s.hostRdata := rfl
@[simp] theorem rngAmbient_hostTurn (s : State) : (rngAmbient s).hostTurn = s.hostTurn := rfl
@[simp] theorem rngAmbient_tick (s : State) : (rngAmbient s).tick = s.tick := rfl

@[simp] theorem emit_prm (s : State) (i : I32) (v : F32) : (emit i v s).prm = s.prm := rfl
@[simp] theorem emit_run (s : State) (i : I32) (v : F32) : (emit i v s).run = s.run := rfl
@[simp] theorem emit_termEnv (s : State) (i : I32) (v : F32) : (emit i v s).termEnv = s.termEnv := rfl
@[simp] theorem emit_termFloor (s : State) (i : I32) (v : F32) : (emit i v s).termFloor = s.termFloor := rfl
@[simp] theorem emit_termCap (s : State) (i : I32) (v : F32) : (emit i v s).termCap = s.termCap := rfl
@[simp] theorem emit_cmdErr (s : State) (i : I32) (v : F32) : (emit i v s).cmdErr = s.cmdErr := rfl
@[simp] theorem emit_wErr (s : State) (i : I32) (v : F32) : (emit i v s).wErr = s.wErr := rfl
@[simp] theorem emit_sampleCount (s : State) (i : I32) (v : F32) : (emit i v s).sampleCount = s.sampleCount := rfl
@[simp] theorem emit_sampleOut (s : State) (i : I32) (v : F32) : (emit i v s).sampleOut = s.sampleOut := rfl
@[simp] theorem emit_syn (s : State) (i : I32) (v : F32) : (emit i v s).syn = s.syn := rfl
@[simp] theorem emit_mem (s : State) (i : I32) (v : F32) : (emit i v s).mem = s.mem := rfl
@[simp] theorem emit_seq (s : State) (i : I32) (v : F32) : (emit i v s).seq = s.seq := rfl
@[simp] theorem emit_emitted (s : State) (i : I32) (v : F32) : (emit i v s).emitted = { index := i, value := v } :: s.emitted := rfl
@[simp] theorem emit_rng (s : State) (i : I32) (v : F32) : (emit i v s).rng = s.rng := rfl
@[simp] theorem emit_inputs (s : State) (i : I32) (v : F32) : (emit i v s).inputs = s.inputs := rfl
@[simp] theorem emit_hostRdata (s : State) (i : I32) (v : F32) : (emit i v s).hostRdata = s.hostRdata := rfl
@[simp] theorem emit_hostTurn (s : State) (i : I32) (v : F32) : (emit i v s).hostTurn = s.hostTurn := rfl
@[simp] theorem emit_tick (s : State) (i : I32) (v : F32) : (emit i v s).tick = s.tick := rfl

@[simp] theorem arbitrate_prm (s : State) : (arbitrate s).prm = s.prm := rfl
@[simp] theorem arbitrate_run (s : State) : (arbitrate s).run = s.run := rfl
@[simp] theorem arbitrate_termEnv (s : State) : (arbitrate s).termEnv = s.termEnv := rfl
@[simp] theorem arbitrate_termFloor (s : State) : (arbitrate s).termFloor = s.termFloor := rfl
@[simp] theorem arbitrate_termCap (s : State) : (arbitrate s).termCap = s.termCap := rfl
@[simp] theorem arbitrate_cmdErr (s : State) : (arbitrate s).cmdErr = s.cmdErr := rfl
@[simp] theorem arbitrate_wErr (s : State) : (arbitrate s).wErr = s.wErr := rfl
@[simp] theorem arbitrate_sampleCount (s : State) : (arbitrate s).sampleCount = s.sampleCount := rfl
@[simp] theorem arbitrate_sampleOut (s : State) : (arbitrate s).sampleOut = s.sampleOut := rfl
@[simp] theorem arbitrate_syn (s : State) : (arbitrate s).syn = s.syn := rfl
@[simp] theorem arbitrate_mem (s : State) : (arbitrate s).mem = s.mem := rfl
@[simp] theorem arbitrate_seq (s : State) : (arbitrate s).seq = s.seq := rfl
@[simp] theorem arbitrate_emitted (s : State) : (arbitrate s).emitted = s.emitted := rfl
@[simp] theorem arbitrate_rng (s : State) : (arbitrate s).rng = s.rng := rfl
@[simp] theorem arbitrate_inputs (s : State) : (arbitrate s).inputs = s.inputs := rfl
@[simp] theorem arbitrate_hostRdata (s : State) : (arbitrate s).hostRdata = s.hostRdata := rfl
@[simp] theorem arbitrate_hostTurn (s : State) : (arbitrate s).hostTurn = Config.hostFirst s.tick := rfl
@[simp] theorem arbitrate_tick (s : State) : (arbitrate s).tick = s.tick + 1 := rfl

/-! ## The random source -/

@[simp] theorem RngSource.advance_seed (r : RngSource) (n : Nat) : (r.advance n).seed = r.seed := rfl
@[simp] theorem RngSource.advance_draws (r : RngSource) (n : Nat) : (r.advance n).draws = r.draws + n := rfl
@[simp] theorem RngSource.advance_total (r : RngSource) (n : Nat) : (r.advance n).total = r.total + n := rfl
@[simp] theorem RngSource.advance_zero (r : RngSource) : r.advance 0 = r := rfl
@[simp] theorem RngSource.advance_advance (r : RngSource) (m n : Nat) : (r.advance m).advance n = r.advance (m + n) := by
  simp only [RngSource.advance, Nat.add_assoc]
@[simp] theorem RngSource.reseed_seed (r : RngSource) (k : I32) : (r.reseed k).seed = some k := rfl
@[simp] theorem RngSource.reseed_draws (r : RngSource) (k : I32) : (r.reseed k).draws = 0 := rfl
@[simp] theorem RngSource.reseed_total (r : RngSource) (k : I32) : (r.reseed k).total = r.total := rfl
@[simp] theorem RngSource.ambient_seed (r : RngSource) : r.ambient.seed = none := rfl
@[simp] theorem RngSource.ambient_draws (r : RngSource) : r.ambient.draws = 0 := rfl
@[simp] theorem RngSource.ambient_total (r : RngSource) : r.ambient.total = r.total := rfl

end Sys2Proof.Machine
end

