-- ==== Sys2Proof/Laws/Memory.lean ====
section
/-! SUPPORT. The laws of memory: every write keeps the canonical form, a read after a write gives what was written,
and a write leaves every other place alone. -/

namespace Sys2Proof.Machine

/-! ## Bytes -/

theorem Memory.wfAbove_mono {m : Memory} : ∀ {low low' : Nat}, low' ≤ low → Memory.wfAbove low m = true →
    Memory.wfAbove low' m = true := by
  intro low low' hle h
  cases m with
  | nil => rfl
  | cons c rest =>
    obtain ⟨x, v⟩ := c
    simp only [Memory.wfAbove, Bool.and_eq_true, decide_eq_true_eq] at h ⊢
    exact ⟨⟨le_trans hle h.1.1, h.1.2⟩, h.2⟩

theorem Memory.writeByte_wfAbove : ∀ {m : Memory} {low a : Nat} {b : Byte}, Memory.wfAbove low m = true → low ≤ a →
    Memory.wfAbove low (m.writeByte a b) = true := by
  intro m
  induction m with
  | nil =>
    intro low a b _ hla
    by_cases hb : b = Memory.unlisted
    · simp [Memory.writeByte, hb, Memory.wfAbove]
    · simp [Memory.writeByte, hb, Memory.wfAbove, hla]
  | cons c rest ih =>
    intro low a b h hla
    obtain ⟨x, v⟩ := c
    simp only [Memory.wfAbove, Bool.and_eq_true, decide_eq_true_eq] at h
    obtain ⟨⟨hx, hv⟩, hr⟩ := h
    unfold Memory.writeByte
    by_cases h1 : a < x
    · by_cases hb : b = Memory.unlisted
      · simp [h1, hb, Memory.wfAbove, hx, hv, hr]
      · simp only [h1, if_true, hb, if_false, Memory.wfAbove, Bool.and_eq_true, decide_eq_true_eq, bne_iff_ne, ne_eq,
          not_false_eq_true]
        exact ⟨⟨hla, trivial⟩, ⟨h1, by simpa using hv⟩, hr⟩
    · by_cases h2 : a = x
      · subst h2
        by_cases hb : b = Memory.unlisted
        · simp only [lt_irrefl, if_false, if_true, hb]
          exact Memory.wfAbove_mono (by omega) hr
        · simp [hb, Memory.wfAbove, hla, hr]
      · simp only [h1, h2, if_false, Memory.wfAbove, Bool.and_eq_true, decide_eq_true_eq]
        exact ⟨⟨hx, hv⟩, ih hr (by omega)⟩

theorem Memory.writeByte_wf {m : Memory} {a : Nat} {b : Byte} (h : m.wf = true) : (m.writeByte a b).wf = true :=
  Memory.writeByte_wfAbove h (Nat.zero_le a)

theorem Memory.readByte_below : ∀ {m : Memory} {low a : Nat}, Memory.wfAbove low m = true → a < low →
    m.readByte a = Memory.unlisted := by
  intro m low a h ha
  cases m with
  | nil => rfl
  | cons c rest =>
    obtain ⟨x, v⟩ := c
    simp only [Memory.wfAbove, Bool.and_eq_true, decide_eq_true_eq] at h
    simp [Memory.readByte, show a < x by omega]

theorem Memory.readByte_writeByte_above : ∀ {m : Memory} {low a a' : Nat} {b : Byte}, Memory.wfAbove low m = true →
    (m.writeByte a b).readByte a' = if a' = a then b else m.readByte a' := by
  intro m
  induction m with
  | nil =>
    intro low a a' b _
    by_cases hb : b = Memory.unlisted
    · by_cases ha : a' = a <;> simp [Memory.writeByte, Memory.readByte, hb, ha]
    · by_cases ha : a' = a
      · simp [Memory.writeByte, Memory.readByte, hb, ha]
      · simp [Memory.writeByte, Memory.readByte, hb, ha]
  | cons c rest ih =>
    intro low a a' b h
    obtain ⟨x, v⟩ := c
    have h' := h
    simp only [Memory.wfAbove, Bool.and_eq_true, decide_eq_true_eq] at h
    obtain ⟨_, hr⟩ := h
    unfold Memory.writeByte
    by_cases h1 : a < x
    · by_cases hb : b = Memory.unlisted
      · by_cases ha : a' = a
        · subst ha; simp [h1, hb, Memory.readByte]
        · simp [h1, hb, ha]
      · by_cases ha : a' = a
        · subst ha; simp [h1, hb, Memory.readByte]
        · by_cases hlt : a' < a
          · simp [h1, hb, ha, Memory.readByte, hlt, show a' < x by omega]
          · simp [h1, hb, ha, Memory.readByte, hlt]
    · by_cases h2 : a = x
      · subst h2
        by_cases hb : b = Memory.unlisted
        · by_cases ha : a' = a
          · subst ha
            simp only [lt_irrefl, if_false, if_true, hb]
            exact Memory.readByte_below hr (by omega)
          · by_cases hlt : a' < a
            · simp [hb, ha, Memory.readByte, hlt]
              exact Memory.readByte_below hr (by omega)
            · simp [hb, ha, Memory.readByte, hlt]
        · by_cases ha : a' = a
          · subst ha; simp [hb, Memory.readByte]
          · by_cases hlt : a' < a <;> simp [hb, ha, Memory.readByte, hlt]
      · simp only [h1, h2, if_false, Memory.readByte]
        by_cases h3 : a' < x
        · simp [h3, show a' ≠ a by omega]
        · by_cases h4 : a' = x
          · simp [h4, show x ≠ a by omega]
          · simp only [h3, h4, if_false]
            exact ih hr

/-- What a byte store does, in full. -/
theorem Memory.readByte_writeByte {m : Memory} (h : m.wf = true) (a a' : Nat) (b : Byte) :
    (m.writeByte a b).readByte a' = if a' = a then b else m.readByte a' :=
  Memory.readByte_writeByte_above h

/-- A byte store lists no address but its own anew. -/
theorem Memory.mem_writeByte : ∀ {m : Memory} {a : Nat} {b : Byte} {c : Host.Cell}, c ∈ m.writeByte a b →
    c ∈ m ∨ c.1 = a := by
  intro m
  induction m with
  | nil =>
    intro a b c h
    unfold Memory.writeByte at h
    split at h
    · exact .inl h
    · right; simpa using congrArg Prod.fst (List.mem_singleton.mp h)
  | cons d rest ih =>
    intro a b c h
    obtain ⟨x, v⟩ := d
    unfold Memory.writeByte at h
    split at h
    · split at h
      · exact .inl h
      · rcases List.mem_cons.mp h with rfl | h
        · exact .inr rfl
        · exact .inl h
    · split at h
      · split at h
        · exact .inl (List.mem_cons_of_mem _ h)
        · rcases List.mem_cons.mp h with rfl | h
          · exact .inr rfl
          · exact .inl (List.mem_cons_of_mem _ h)
      · rcases List.mem_cons.mp h with rfl | h
        · exact .inl List.mem_cons_self
        · rcases ih h with h | h
          · exact .inl (List.mem_cons_of_mem _ h)
          · exact .inr h

/-! ## Words -/

theorem Memory.writeWord_wf {m : Memory} {a : Nat} {v : BitVec 32} (h : m.wf = true) : (m.writeWord a v).wf = true :=
  Memory.writeByte_wf (Memory.writeByte_wf (Memory.writeByte_wf (Memory.writeByte_wf h)))

/-- What a word store does to every byte. -/
theorem Memory.readByte_writeWord {m : Memory} (h : m.wf = true) (a a' : Nat) (v : BitVec 32) :
    (m.writeWord a v).readByte a' =
      if a' = a then v.extractLsb' 0 8 else if a' = a + 1 then v.extractLsb' 8 8
      else if a' = a + 2 then v.extractLsb' 16 8 else if a' = a + 3 then v.extractLsb' 24 8
      else m.readByte a' := by
  unfold Memory.writeWord
  rw [Memory.readByte_writeByte (Memory.writeByte_wf (Memory.writeByte_wf (Memory.writeByte_wf h))),
    Memory.readByte_writeByte (Memory.writeByte_wf (Memory.writeByte_wf h)),
    Memory.readByte_writeByte (Memory.writeByte_wf h), Memory.readByte_writeByte h]
  split_ifs <;> first | rfl | omega

/-- Four bytes joined are the word they came from. -/
theorem join_bytes (v : BitVec 32) :
    v.extractLsb' 24 8 ++ v.extractLsb' 16 8 ++ v.extractLsb' 8 8 ++ v.extractLsb' 0 8 = v := by
  apply BitVec.eq_of_getLsbD_eq
  intro i hi
  simp only [BitVec.getLsbD_append, BitVec.getLsbD_extractLsb']
  by_cases h0 : i < 8
  · simp [h0]
  by_cases h1 : i - 8 < 8
  · simp [h0, h1]; congr 1; omega
  by_cases h2 : i - 8 - 8 < 8
  · simp only [h0, h1, h2, if_false, if_true, decide_true, Bool.true_and]; congr 1; omega
  have h3 : i - 8 - 8 - 8 < 8 := by omega
  simp only [h0, h1, h2, h3, if_false, decide_true, Bool.true_and]; congr 1; omega

/-- A word read after a store of it. -/
theorem Memory.readWord_writeWord_same {m : Memory} (h : m.wf = true) (a : Nat) (v : BitVec 32) :
    (m.writeWord a v).readWord a = v := by
  unfold Memory.readWord
  simp only [Memory.readByte_writeWord h]
  simpa using join_bytes v

/-- A word read at a place a store does not touch. -/
theorem Memory.readWord_writeWord_apart {m : Memory} (h : m.wf = true) {a a' : Nat} (v : BitVec 32)
    (hne : a' + 4 ≤ a ∨ a + 4 ≤ a') : (m.writeWord a v).readWord a' = m.readWord a' := by
  unfold Memory.readWord
  simp only [Memory.readByte_writeWord h]
  congr 1 <;> [congr 1 <;> [congr 1; skip]; skip] <;> · split_ifs <;> first | rfl | omega

theorem Memory.mem_writeWord {m : Memory} {a : Nat} {v : BitVec 32} {c : Host.Cell} (h : c ∈ m.writeWord a v) :
    c ∈ m ∨ a ≤ c.1 ∧ c.1 < a + 4 := by
  unfold Memory.writeWord at h
  rcases Memory.mem_writeByte h with h | h
  · rcases Memory.mem_writeByte h with h | h
    · rcases Memory.mem_writeByte h with h | h
      · rcases Memory.mem_writeByte h with h | h
        · exact .inl h
        · right; omega
      · right; omega
    · right; omega
  · right; omega

/-! ## The delay line and the noise table -/

theorem dlSlot_lt (i : I32) : dlSlot i < 1024 := by
  unfold dlSlot
  rw [BitVec.toNat_and]
  exact lt_of_le_of_lt Nat.and_le_right (by decide)

theorem dlWrite_wf {m : Memory} {i : I32} {v : F32} (h : m.wf = true) : (dlWrite m i v).wf = true :=
  Memory.writeWord_wf h

theorem ntWrite_wf {m : Memory} {j : Nat} {v : F32} (h : m.wf = true) : (ntWrite m j v).wf = true :=
  Memory.writeWord_wf h

/-- `DLRead` after `DLWrite` (20_memory.md R98). -/
theorem dlRead_dlWrite {m : Memory} (h : m.wf = true) (i k : I32) (v : F32) :
    dlRead (dlWrite m i v) k = if dlSlot k = dlSlot i then v else dlRead m k := by
  unfold dlRead dlWrite
  split_ifs with he
  · rw [he]; exact Memory.readWord_writeWord_same h _ _
  · exact Memory.readWord_writeWord_apart h v (by unfold dlAddr; omega)

/-- A store to DL leaves NT alone. -/
theorem ntRead_dlWrite {m : Memory} (h : m.wf = true) (i : I32) (v : F32) (j : Nat) :
    ntRead (dlWrite m i v) j = ntRead m j := by
  unfold ntRead dlWrite
  split_ifs
  · exact Memory.readWord_writeWord_apart h v (by have := dlSlot_lt i; unfold dlAddr ntAddr; omega)
  · rfl

/-- A store to NT leaves DL alone. -/
theorem dlRead_ntWrite {m : Memory} (h : m.wf = true) (j : Nat) (v : F32) (i : I32) :
    dlRead (ntWrite m j v) i = dlRead m i := by
  unfold dlRead ntWrite
  exact Memory.readWord_writeWord_apart h v (by have := dlSlot_lt i; unfold dlAddr ntAddr; omega)

/-- `NTRead` after `NTWrite` (20_memory.md R98). -/
theorem ntRead_ntWrite {m : Memory} (h : m.wf = true) (j k : Nat) (v : F32) (hk : k < noiseLen) :
    ntRead (ntWrite m j v) k = if k = j then v else ntRead m k := by
  unfold ntRead ntWrite
  simp only [hk, if_true]
  split_ifs with he
  · rw [he]; exact Memory.readWord_writeWord_same h _ _
  · exact Memory.readWord_writeWord_apart h v (by unfold ntAddr; omega)

/-! ## The noise fill -/

/-- A draw lies in [-1, 1] (60_exceptions.md R333). -/
theorem inUnit_unitDraw (raw : F32) : inUnit (unitDraw raw) = true := by
  unfold unitDraw
  split_ifs with h
  · exact h
  · have hm : binary32.mag (raw &&& 0xBF7FFFFF#32).toNat ≤ 0x3F7FFFFF := by
      have hs : binary32.signBit = 2 ^ 31 := by decide
      unfold Fmt.mag
      rw [hs, ← BitVec.toNat_setWidth, BitVec.setWidth_and, BitVec.toNat_and]
      exact le_trans Nat.and_le_right (by decide)
    unfold inUnit
    exact decide_eq_true (by omega)

/-- What `n` draws into NT do: only memory and the random source change. -/
theorem drawRange_eq (P : Params) : ∀ (n j : Nat) (s : State),
    drawRange P n j s = { s with
      mem := (drawRange P n j s).mem
      rng := s.rng.advance n } := by
  intro n
  induction n with
  | zero => intro j s; rfl
  | succ n ih =>
    intro j s
    rw [drawRange, ih]
    simp only [drawInto, State.setMem, State.setRng, RngSource.advance_advance, Nat.add_comm 1 n]

/-- The draws keep the canonical form, the delay line, and NT before the first slot; slot `j + k` holds draw `k`. -/
theorem drawRange_mem (P : Params) : ∀ (n j : Nat) (s : State), s.mem.wf = true →
    (drawRange P n j s).mem.wf = true ∧
    (∀ i, dlRead (drawRange P n j s).mem i = dlRead s.mem i) ∧
    (∀ k, k < noiseLen → ntRead (drawRange P n j s).mem k =
      if j ≤ k ∧ k < j + n then drawValue P (s.rng.advance (k - j)) else ntRead s.mem k) := by
  intro n
  induction n with
  | zero =>
    intro j s h
    refine ⟨h, fun _ => rfl, fun k _ => ?_⟩
    rw [if_neg (by omega)]; rfl
  | succ n ih =>
    intro j s h
    have hw : (drawInto P j s).mem.wf = true := ntWrite_wf h
    obtain ⟨h1, h2, h3⟩ := ih (j + 1) (drawInto P j s) hw
    refine ⟨h1, fun i => ?_, fun k hk => ?_⟩
    · rw [drawRange, h2]; exact dlRead_ntWrite h _ _ _
    · rw [drawRange, h3 k hk]
      have hn : ntRead (drawInto P j s).mem k = if k = j then drawValue P s.rng else ntRead s.mem k :=
        ntRead_ntWrite h _ _ _ hk
      by_cases hkj : k = j
      · subst hkj
        rw [if_neg (by omega), hn, if_pos rfl, if_pos (by omega)]
        simp
      · rw [hn, if_neg hkj]
        by_cases hr : j + 1 ≤ k ∧ k < j + 1 + n
        · rw [if_pos hr, if_pos (by omega)]
          simp only [drawInto, State.setRng_rng, RngSource.advance_advance]
          congr 2
          omega
        · rw [if_neg hr, if_neg (by omega)]

/-- The draws list only bytes of the slots they fill. -/
theorem mem_drawRange (P : Params) : ∀ (n j : Nat) (s : State) {c : Host.Cell}, c ∈ (drawRange P n j s).mem →
    c ∈ s.mem ∨ ntAddr j ≤ c.1 ∧ c.1 < ntAddr (j + n) := by
  intro n
  induction n with
  | zero => intro j s c h; exact .inl h
  | succ n ih =>
    intro j s c h
    rcases ih (j + 1) (drawInto P j s) h with h | h
    · rcases Memory.mem_writeWord h with h | h
      · exact .inl h
      · right; unfold ntAddr at *; omega
    · right; unfold ntAddr at *; omega

/-- The draws leave every byte outside the slots they fill. -/
theorem readByte_drawRange (P : Params) : ∀ (n j : Nat) (s : State), s.mem.wf = true → ∀ a, a < ntAddr j ∨ ntAddr (j + n) ≤ a →
    (drawRange P n j s).mem.readByte a = s.mem.readByte a := by
  intro n
  induction n with
  | zero => intro j s _ a _; rfl
  | succ n ih =>
    intro j s h a ha
    have hw : (drawInto P j s).mem.wf = true := ntWrite_wf h
    rw [drawRange, ih (j + 1) (drawInto P j s) hw a (by unfold ntAddr at *; omega)]
    show (s.mem.writeWord (ntAddr j) _).readByte a = _
    rw [Memory.readByte_writeWord h]
    unfold ntAddr at *
    split_ifs <;> first | rfl | omega

/-- What the noise fill does, in full (41_setup.md R192; 45_oscillator.md R262). -/
theorem fillNoise_spec (P : Params) {s : State} (h : s.mem.wf = true) :
    fillNoise P s = { s with
      mem := (fillNoise P s).mem
      rng := s.rng.advance 32 } ∧
    (fillNoise P s).mem.wf = true ∧
    (∀ i, dlRead (fillNoise P s).mem i = dlRead s.mem i) ∧
    (∀ j, j < noiseLen → ntRead (fillNoise P s).mem j = drawValue P (s.rng.advance j)) := by
  obtain ⟨h1, h2, h3⟩ := drawRange_mem P noiseLen 0 s h
  refine ⟨drawRange_eq P 32 0 s, h1, h2, fun j hj => ?_⟩
  unfold fillNoise
  rw [h3 j hj, if_pos (by omega), Nat.sub_zero]

/-- The values of the draws that a reseed governs: its seed and their number decide them (60_exceptions.md R333). -/
theorem drawValue_reseed (P : Params) (r : RngSource) (seed : I32) (n : Nat) :
    drawValue P ((r.reseed seed).advance n) = unitDraw (P.rng seed n) := by
  simp only [drawValue, RngSource.advance_seed, RngSource.reseed_seed, RngSource.advance_draws, RngSource.reseed_draws,
    Nat.zero_add]

/-- The values of ambient draws: each is free, and no earlier reseed plays a part (93_implementation_defined.md U7). -/
theorem drawValue_ambient (P : Params) (r : RngSource) (n : Nat) :
    drawValue P (r.ambient.advance n) = unitDraw (P.ambient (r.total + n)) := rfl

end Sys2Proof.Machine
end

