-- ==== Sys2Proof/Laws/Datapath.lean ====
section
/-! SUPPORT. What each shared operation of the datapath can change, said once: `f s` is `s` with the named groups
replaced. A proof about a micro-operation cites these and unfolds only the register it is about. -/

namespace Sys2Proof.Machine

/-! ## The setup micro-operations -/

theorem suReseed_eq (s : State) : suReseed s = { s with rng := (suReseed s).rng } := by
  unfold suReseed; split_ifs <;> rfl

theorem suClamp_eq (s : State) : suClamp s = { s with prm := s.prm.clamp } := rfl

/-- The clamp leaves the start frequency and the delta slide. -/
theorem clamp_startFrequency (p : Prm) : p.clamp.startFrequency = p.startFrequency := by
  unfold Prm.clamp; dsimp only; split_ifs <;> rfl

theorem clamp_deltaSlide (p : Prm) : p.clamp.deltaSlide = p.deltaSlide := by
  unfold Prm.clamp; dsimp only; split_ifs <;> rfl

theorem clamp_minFrequency (p : Prm) :
    p.clamp.minFrequency = if lt32 p.startFrequency p.minFrequency then p.startFrequency else p.minFrequency := by
  unfold Prm.clamp; dsimp only; split_ifs <;> rfl

theorem clamp_slide (p : Prm) : p.clamp.slide = if lt32 p.slide p.deltaSlide then p.deltaSlide else p.slide := by
  unfold Prm.clamp; dsimp only; split_ifs <;> simp_all

theorem suPeriod_eq (P : Params) (s : State) : suPeriod P s = { s with syn := s.syn.derivePeriod P s.prm } := rfl
theorem suSlide_eq (P : Params) (s : State) : suSlide P s = { s with syn := s.syn.deriveSlide P s.prm } := rfl
theorem suArp_eq (P : Params) (s : State) : suArp P s = { s with syn := s.syn.deriveArp P s.prm } := rfl
theorem suDuty_eq (P : Params) (s : State) : suDuty P s = { s with syn := s.syn.deriveDuty P s.prm } := rfl
theorem suFilter_eq (P : Params) (s : State) : suFilter P s = { s with syn := s.syn.deriveFilter P s.prm } := rfl
theorem suVibrato_eq (P : Params) (s : State) : suVibrato P s = { s with syn := s.syn.deriveVibrato P s.prm } := rfl
theorem suEnvlen_eq (P : Params) (s : State) : suEnvlen P s = { s with syn := s.syn.deriveEnvlen P s.prm } := rfl
theorem suPhaser_eq (P : Params) (s : State) : suPhaser P s = { s with syn := s.syn.derivePhaser P s.prm } := rfl
theorem suRepeat_eq (P : Params) (s : State) : suRepeat P s = { s with syn := s.syn.deriveRepeat P s.prm } := rfl

theorem suNoise_eq (P : Params) (s : State) : suNoise P s =
    { s with mem := (suNoise P s).mem, rng := s.rng.advance 32 } :=
  drawRange_eq P 32 0 s

/-! ## The micro-operations of an outer sample -/

theorem psRepeat_eq (P : Params) (s : State) : psRepeat P s = { s with syn := (psRepeat P s).syn } := by
  unfold psRepeat; dsimp only; split_ifs <;> rfl

theorem psArp_eq (P : Params) (s : State) : psArp P s = { s with syn := (psArp P s).syn } := by
  unfold psArp; dsimp only; split_ifs <;> rfl

theorem psSlide_eq (P : Params) (s : State) :
    psSlide P s = { s with syn := (psSlide P s).syn, termFloor := (psSlide P s).termFloor } := by
  unfold psSlide; dsimp only; split_ifs <;> rfl

theorem psVibrato_eq (P : Params) (s : State) : psVibrato P s =
    { s with syn := (psVibrato P s).syn, seq := { s.seq with rfperiod := (psVibrato P s).seq.rfperiod } } := by
  unfold psVibrato; dsimp only; split_ifs <;> rfl

theorem psPeriod_eq (P : Params) (s : State) : psPeriod P s =
    { s with syn := { s.syn with period := floorPeriod P (trunc32 P s.seq.rfperiod) } } := rfl

theorem psDuty_eq (P : Params) (s : State) : psDuty P s =
    { s with syn := { s.syn with
      squareDuty := clamp32 0#32 P.K.dutyMax (add32 P s.syn.squareDuty s.syn.squareSlide) } } := rfl

theorem envAdvance_eq (s : State) :
    envAdvance s = { s with syn := (envAdvance s).syn, termEnv := (envAdvance s).termEnv } := by
  unfold envAdvance; dsimp only; split_ifs <;> rfl

/-- The envelope stays in its stage. -/
theorem envAdvance_stay {s : State} (h : (s.syn.envLen s.syn.envStage).slt (s.syn.envTime + 1#32) = false) :
    envAdvance s = { s with syn := { s.syn with envTime := s.syn.envTime + 1#32 } } := by
  unfold envAdvance; dsimp only; rw [if_neg (by rw [h]; exact Bool.false_ne_true)]; rfl

/-- The envelope moves to its next stage, which is not the terminal one. -/
theorem envAdvance_next {s : State} (h : (s.syn.envLen s.syn.envStage).slt (s.syn.envTime + 1#32) = true)
    (h3 : s.syn.envStage + 1#32 ≠ 3#32) :
    envAdvance s = { s with syn := { s.syn with envTime := 0#32, envStage := s.syn.envStage + 1#32 } } := by
  unfold envAdvance; dsimp only; rw [if_pos h, if_neg h3]; rfl

/-- The envelope completes its last stage. -/
theorem envAdvance_end {s : State} (h : (s.syn.envLen s.syn.envStage).slt (s.syn.envTime + 1#32) = true)
    (h3 : s.syn.envStage + 1#32 = 3#32) :
    envAdvance s = { s with
      syn := { s.syn with envTime := 0#32, envStage := s.syn.envStage + 1#32, gen := false }, termEnv := true } := by
  unfold envAdvance; dsimp only; rw [if_pos h, if_pos h3]; rfl

theorem psEnv_eq (P : Params) (s : State) :
    psEnv P s = { s with syn := (psEnv P s).syn, termEnv := (psEnv P s).termEnv } := by
  unfold psEnv; rw [envAdvance_eq]; rfl

theorem psPhaserTap_eq (P : Params) (s : State) : psPhaserTap P s = { s with syn := (psPhaserTap P s).syn } := rfl

theorem psHpSweep_eq (P : Params) (s : State) : psHpSweep P s = { s with syn := (psHpSweep P s).syn } := by
  unfold psHpSweep; split_ifs <;> rfl

theorem psSsclr_eq (s : State) : psSsclr s = { s with seq := { s.seq with ssample := 0#32 } } := rfl

/-- SS_PHASE changes the phase, and on a noise wrap NT and the random source. -/
theorem ssPhase_eq (P : Params) (s : State) : ssPhase P s =
    { s with syn := { s.syn with phase := (ssPhase P s).syn.phase }, mem := (ssPhase P s).mem,
             rng := (ssPhase P s).rng } := by
  unfold ssPhase; dsimp only
  split_ifs
  · have h := suNoise_eq P (s.setSyn { s.syn with phase := modI32 (s.syn.phase + 1#32) s.syn.period })
    unfold suNoise at h
    generalize fillNoise P _ = x at h ⊢
    rw [h]; rfl
  · rfl
  · rfl

/-- SS_WAVE changes two temporaries. -/
theorem ssWave_eq (P : Params) (s : State) : ssWave P s =
    { s with seq := { s.seq with fp := phaseFraction P s.syn, sample := (ssWave P s).seq.sample } } := by
  unfold ssWave; dsimp only; split <;> rfl

theorem ssLpf_eq (P : Params) (s : State) : ssLpf P s =
    { s with syn := s.syn.lowPass P s.prm s.seq.sample, seq := { s.seq with pp := s.syn.fltp } } := rfl

theorem ssHpf_eq (P : Params) (s : State) : ssHpf P s =
    { s with syn := { s.syn with fltphp := hpfOutput P s.syn s.seq.pp },
             seq := { s.seq with sample := hpfOutput P s.syn s.seq.pp } } := rfl

theorem ssPhaser_eq (P : Params) (s : State) : ssPhaser P s =
    { s with syn := { s.syn with ipp := (s.syn.ipp + 1#32) &&& 1023#32 },
             mem := dlWrite s.mem (s.syn.ipp &&& 1023#32) s.seq.sample,
             seq := { s.seq with sample := (ssPhaser P s).seq.sample } } := rfl

theorem ssAcc_eq (P : Params) (s : State) : ssAcc P s =
    { s with seq := { s.seq with ssample := add32 P s.seq.ssample (mul32 P s.seq.sample s.syn.envVol) } } := rfl

/-- PO_OUT emits one sample and counts it. -/
theorem poOut_eq (P : Params) (s : State) : poOut P s =
    { s with syn := { s.syn with gen := s.syn.gen && !decide (s.sampleCount + 1#32 = capacity) },
             termCap := s.termCap || decide (s.sampleCount + 1#32 = capacity),
             sampleCount := s.sampleCount + 1#32,
             sampleOut := outputValue P s.seq.ssample,
             emitted := { index := s.sampleCount, value := outputValue P s.seq.ssample } :: s.emitted,
             seq := { s.seq with ssample := outputValue P s.seq.ssample } } := by
  unfold poOut emitSample; dsimp only [State.setSsample]
  by_cases h : s.sampleCount + 1#32 = capacity
  · simp [h, terminateCap, emit]
  · simp [h, emit]

/-! ## Clamps and comparisons -/

/-- No number is below itself. -/
theorem lt32_irrefl (x : F32) : lt32 x x = false := by
  unfold lt32 Fmt.lt; simp

/-- The period floor (42_frequency_lfo.md R214). -/
theorem floorPeriod_ge (P : Params) (v : I32) : P.K.minPeriod.toInt ≤ (floorPeriod P v).toInt := by
  unfold floorPeriod
  split_ifs with h
  · exact le_refl _
  · rw [BitVec.slt_iff_toInt_lt] at h; omega

/-- The delay-line index is below 1024. -/
theorem and_1023_lt (x : I32) : (x &&& 1023#32).toNat < 1024 := dlSlot_lt x

/-! ## The sequencer -/

theorem performSeq_cons (u : BitVec 8) (f : State → State) (rest : List MicroOp) (s : State) :
    performSeq ((u, f) :: rest) s = performSeq rest (f (s.setUpc u)) := rfl

theorem performSeq_nil (s : State) : performSeq [] s = s := rfl

/-- A property that every micro-operation of a sequence keeps, the sequence keeps. -/
theorem performSeq_keeps {I : State → Prop} : ∀ {l : List MicroOp},
    (∀ m ∈ l, ∀ s, I s → I (m.2 (s.setUpc m.1))) → ∀ {s : State}, I s → I (performSeq l s) := by
  intro l
  induction l with
  | nil => intro _ s hs; exact hs
  | cons m rest ih =>
    intro h s hs
    exact ih (fun m' hm => h m' (List.mem_cons_of_mem _ hm)) (h m List.mem_cons_self s hs)

/-- A property that every micro-operation of a sub-sample keeps, the sub-samples keep. -/
theorem subSamples_keeps {I : State → Prop} {P : Params}
    (h : ∀ m ∈ subSampleSeq P, ∀ s, I s → I (m.2 (s.setUpc m.1))) (hsi : ∀ k s, I s → I (s.setSi k)) :
    ∀ (n k : Nat) {s : State}, I s → I (subSamples P n k s) := by
  intro n
  induction n with
  | zero => intro k s hs; exact hs
  | succ n ih => intro k s hs; exact ih (k + 1) (performSeq_keeps h (hsi _ _ hs))

end Sys2Proof.Machine
end

