-- ==== Sys2Proof/Laws/Window.lean ====
section
/-! SUPPORT. What the host window gives at each offset, said once: which register an offset names, and what a read or
a write of an aligned offset does. -/

namespace Sys2Proof.Machine

/-- An offset `base + 4·n` as a number, and that it is aligned. -/
theorem offset_word (base n : Nat) (hb : base % 4 = 0) (h : base + 4 * n < 65536) :
    (BitVec.ofNat 16 (base + 4 * n)).toNat = base + 4 * n ∧ alignedOffset (BitVec.ofNat 16 (base + 4 * n)) = true := by
  have ht : (BitVec.ofNat 16 (base + 4 * n)).toNat = base + 4 * n := by
    rw [BitVec.toNat_ofNat]; omega
  refine ⟨ht, ?_⟩
  unfold alignedOffset
  rw [beq_iff_eq]
  apply BitVec.eq_of_toNat_eq
  rw [BitVec.extractLsb'_toNat, ht, Nat.shiftRight_zero]
  show (base + 4 * n) % 4 = 0
  omega

/-- An aligned offset is a multiple of 4. -/
theorem alignedOffset_mod {off : BitVec 16} (h : alignedOffset off = true) : off.toNat % 4 = 0 := by
  unfold alignedOffset at h
  rw [beq_iff_eq] at h
  have h' := congrArg BitVec.toNat h
  rw [BitVec.extractLsb'_toNat, Nat.shiftRight_zero] at h'
  simpa using h'

/-- The parameter record (20_memory.md R81). -/
theorem windowReg_prm {off : BitVec 16} (h : off.toNat < 0x060) : windowReg off = .prm (off.toNat / 4) := by
  unfold windowReg
  exact if_pos h

/-- A choice between two registers is another register if both are. -/
theorem ite_ne_of {c : Prop} [Decidable c] {x y z : WindowReg} (hx : x ≠ z) (hy : y ≠ z) :
    (if c then x else y) ≠ z := by
  split
  · exact hx
  · exact hy

/-- Above CTRL no offset names a register that takes a write. -/
theorem windowReg_above {off : BitVec 16} (h : 0x064 ≤ off.toNat) :
    (∀ n, windowReg off ≠ .prm n) ∧ windowReg off ≠ .ctrl := by
  unfold windowReg
  generalize off.toNat = a at h
  dsimp only
  rw [if_neg (by omega), if_neg (by omega)]
  refine ⟨fun n => ?_, ?_⟩
  · iterate 12 refine ite_ne_of (fun he => nomatch he) ?_
    exact fun he => nomatch he
  · iterate 12 refine ite_ne_of (fun he => nomatch he) ?_
    exact fun he => nomatch he

/-- A word of the debug mirror (20_memory.md R84). -/
theorem windowReg_debug {off : BitVec 16} (h1 : 0x100 ≤ off.toNat) (h2 : off.toNat < 0x1A0) :
    windowReg off = .debug ((off.toNat - 0x100) / 4) := by
  unfold windowReg
  generalize off.toNat = a at *
  dsimp only
  iterate 10 rw [if_neg (by omega)]
  rw [if_pos (by omega)]

/-- A word of the delay line (20_memory.md R85). -/
theorem windowReg_dl {off : BitVec 16} (h1 : 0x1000 ≤ off.toNat) (h2 : off.toNat < 0x2000) :
    windowReg off = .dl ((off.toNat - 0x1000) / 4) := by
  unfold windowReg
  generalize off.toNat = a at *
  dsimp only
  iterate 12 rw [if_neg (by omega)]
  rw [if_pos (by omega)]

/-- A word of the noise table (20_memory.md R85). -/
theorem windowReg_nt {off : BitVec 16} (h1 : 0x2000 ≤ off.toNat) (h2 : off.toNat < 0x2080) :
    windowReg off = .nt ((off.toNat - 0x2000) / 4) := by
  unfold windowReg
  generalize off.toNat = a at *
  dsimp only
  iterate 13 rw [if_neg (by omega)]
  rw [if_pos (by omega)]

/-- The empty memory reads +0.0 in every slot. -/
theorem readWord_nil (a : Nat) : Memory.readWord [] a = 0#32 := by
  simp only [Memory.readWord, Memory.readByte, Memory.unlisted]; rfl

theorem dlRead_nil (i : I32) : dlRead [] i = 0#32 := readWord_nil _

theorem ntRead_nil {j : Nat} (h : j < noiseLen) : ntRead [] j = 0#32 := by
  unfold ntRead; rw [if_pos h]; exact readWord_nil _

/-- An admitted read, in full (20_memory.md R90). -/
theorem exec_rd {off : BitVec 16} (h : alignedOffset off = true) (s : State) :
    exec (.rd off) s = .next { s with hostRdata := hostValue s off } := if_pos h

/-- An admitted write, in full (20_memory.md R82, R83, R86). -/
theorem exec_wr {off : BitVec 16} (h : alignedOffset off = true) (v : BitVec 32) (s : State) :
    exec (.wr off v) s = .next (hostWrite specParams off v s) := if_pos h

/-- What a host write does: to PRM the guarded write, to CTRL the command, elsewhere nothing. -/
theorem hostWrite_cases (P : Params) (off : BitVec 16) (v : BitVec 32) (s : State) :
    (∃ n, windowReg off = .prm n ∧ hostWrite P off v s = hostWritePrm n v s) ∨
    windowReg off = .ctrl ∧ hostWrite P off v s = command P v s ∨ hostWrite P off v s = s := by
  unfold hostWrite
  cases h : windowReg off with
  | prm n => exact .inl ⟨n, rfl, rfl⟩
  | ctrl => exact .inr (.inl ⟨rfl, rfl⟩)
  | status | sampleCount | sampleOut | rate | format | capacity | ifRev | reserved => exact .inr (.inr rfl)
  | debug | dl | nt => exact .inr (.inr rfl)

/-- What a command does: one of five effects, or nothing but CMDERR (40_control.md R140). -/
theorem command_cases (P : Params) (v : BitVec 32) (s : State) :
    command P v s = s ∨ command P v s = refuseCommand s ∨
    s.run ≠ .running ∧ command P v s = endSetup (performSeq (setupSeq P) s) ∨
    s.run = .ready ∧ command P v s = endSample (outerSample P s) ∨
    s.run = .ready ∧ command P v s = s.setRun .running ∨
    command P v s = (s.setRun .idle).setUpc 0x00#8 ∨
    decodeCmd v = .clrerr ∧ command P v s = { s with cmdErr := false, wErr := false } := by
  unfold command decodeCmd
  have hl : (v.extractLsb' 0 4).toNat < 16 := (v.extractLsb' 0 4).isLt
  generalize (v.extractLsb' 0 4).toNat = n at hl
  interval_cases n
  · exact .inl rfl
  · cases hr : s.run <;> simp [cmdSetup, hr]
  · cases hr : s.run <;> simp [cmdStep, hr]
  · cases hr : s.run <;> simp [cmdRun, hr]
  · simp [cmdAbort]
  · simp [cmdClrerr]
  all_goals exact .inr (.inl rfl)

end Sys2Proof.Machine
end

