-- ==== Sys2Proof/Laws/Control.lean ====
section
/-! SUPPORT. No micro-operation reads or writes the control part of the state: STATUS.STATE, the error bits, `upc`,
`si`, the host's side and the schedule. Said once as a commutation, so that a whole sequence can be moved from one
control part to another (SETUP and STEP, which perform it in one transition, and RUN, which performs it step by
step). -/

namespace Sys2Proof.Machine

/-- `s` with the control part of `c`. -/
def State.control (c s : State) : State :=
  { s with
    run := c.run
    cmdErr := c.cmdErr
    wErr := c.wErr
    inputs := c.inputs
    hostRdata := c.hostRdata
    hostTurn := c.hostTurn
    tick := c.tick
    seq := { s.seq with upc := c.seq.upc, si := c.seq.si } }

/-- An operation that commutes with every change of the control part. -/
def Uncontrolled (f : State → State) : Prop := ∀ c s : State, f (State.control c s) = State.control c (f s)

theorem control_control (c d s : State) : State.control c (State.control d s) = State.control c s := rfl
theorem control_self (s : State) : State.control s s = s := rfl
theorem control_setUpc (c s : State) (u : BitVec 8) : State.control c (s.setUpc u) = State.control c s := rfl
theorem control_setSi (c s : State) (k : BitVec 3) : State.control c (s.setSi k) = State.control c s := rfl
theorem setUpc_eq_control (s : State) (u : BitVec 8) : s.setUpc u = State.control (s.setUpc u) s := rfl
theorem setSi_eq_control (s : State) (k : BitVec 3) : s.setSi k = State.control (s.setSi k) s := rfl

theorem drawRange_uncontrolled (P : Params) : ∀ n j, Uncontrolled (drawRange P n j) := by
  intro n
  induction n with
  | zero => intro j c s; rfl
  | succ n ih => intro j c s; exact ih (j + 1) c (drawInto P j s)

theorem fillNoise_uncontrolled (P : Params) : Uncontrolled (fillNoise P) := drawRange_uncontrolled P noiseLen 0

theorem suReseed_uncontrolled : Uncontrolled suReseed := by
  intro c s; unfold suReseed
  rw [apply_ite (State.control c)]; rfl

theorem suClamp_uncontrolled : Uncontrolled suClamp := fun _ _ => rfl
theorem suClear_uncontrolled : Uncontrolled suClear := fun _ _ => rfl
theorem suPeriod_uncontrolled (P : Params) : Uncontrolled (suPeriod P) := fun _ _ => rfl
theorem suSlide_uncontrolled (P : Params) : Uncontrolled (suSlide P) := fun _ _ => rfl
theorem suArp_uncontrolled (P : Params) : Uncontrolled (suArp P) := fun _ _ => rfl
theorem suDuty_uncontrolled (P : Params) : Uncontrolled (suDuty P) := fun _ _ => rfl
theorem suFilter_uncontrolled (P : Params) : Uncontrolled (suFilter P) := fun _ _ => rfl
theorem suVibrato_uncontrolled (P : Params) : Uncontrolled (suVibrato P) := fun _ _ => rfl
theorem suEnvlen_uncontrolled (P : Params) : Uncontrolled (suEnvlen P) := fun _ _ => rfl
theorem suPhaser_uncontrolled (P : Params) : Uncontrolled (suPhaser P) := fun _ _ => rfl
theorem suRepeat_uncontrolled (P : Params) : Uncontrolled (suRepeat P) := fun _ _ => rfl
theorem suNoise_uncontrolled (P : Params) : Uncontrolled (suNoise P) := fillNoise_uncontrolled P

theorem psRepeat_uncontrolled (P : Params) : Uncontrolled (psRepeat P) := by
  intro c s; unfold psRepeat; dsimp only; rw [apply_ite (State.control c)]; rfl

theorem psArp_uncontrolled (P : Params) : Uncontrolled (psArp P) := by
  intro c s; unfold psArp; dsimp only; rw [apply_ite (State.control c)]; rfl

theorem psSlide_uncontrolled (P : Params) : Uncontrolled (psSlide P) := by
  intro c s; unfold psSlide; dsimp only; rw [apply_ite (State.control c)]; rw [apply_ite (State.control c)]; rfl

theorem psVibrato_uncontrolled (P : Params) : Uncontrolled (psVibrato P) := by
  intro c s; unfold psVibrato; dsimp only; rw [apply_ite (State.control c)]; rfl

theorem psPeriod_uncontrolled (P : Params) : Uncontrolled (psPeriod P) := fun _ _ => rfl
theorem psDuty_uncontrolled (P : Params) : Uncontrolled (psDuty P) := fun _ _ => rfl

theorem envAdvance_uncontrolled : Uncontrolled envAdvance := by
  intro c s; unfold envAdvance; dsimp only; rw [apply_ite (State.control c), apply_ite (State.control c)]; rfl

theorem psEnv_uncontrolled (P : Params) : Uncontrolled (psEnv P) := by
  intro c s; unfold psEnv; rw [envAdvance_uncontrolled c s]; rfl

theorem psPhaserTap_uncontrolled (P : Params) : Uncontrolled (psPhaserTap P) := fun _ _ => rfl

theorem psHpSweep_uncontrolled (P : Params) : Uncontrolled (psHpSweep P) := by
  intro c s; unfold psHpSweep
  rw [apply_ite (State.control c)]; rfl

theorem psSsclr_uncontrolled : Uncontrolled psSsclr := fun _ _ => rfl

theorem ssPhase_uncontrolled (P : Params) : Uncontrolled (ssPhase P) := by
  intro c s; unfold ssPhase; dsimp only
  rw [apply_ite (State.control c), apply_ite (State.control c), ← fillNoise_uncontrolled P c]; rfl

theorem ssWave_uncontrolled (P : Params) : Uncontrolled (ssWave P) := by
  intro c s; unfold ssWave
  dsimp only
  have e : (State.control c s).prm.waveType.toNat = s.prm.waveType.toNat := rfl
  rw [e]
  generalize s.prm.waveType.toNat = n
  rcases n with _ | _ | _ | _ | n <;> rfl

theorem ssLpf_uncontrolled (P : Params) : Uncontrolled (ssLpf P) := fun _ _ => rfl
theorem ssHpf_uncontrolled (P : Params) : Uncontrolled (ssHpf P) := fun _ _ => rfl
theorem ssPhaser_uncontrolled (P : Params) : Uncontrolled (ssPhaser P) := fun _ _ => rfl
theorem ssAcc_uncontrolled (P : Params) : Uncontrolled (ssAcc P) := fun _ _ => rfl

theorem poOut_uncontrolled (P : Params) : Uncontrolled (poOut P) := by
  intro c s; rw [poOut_eq, poOut_eq]; rfl

/-- Every micro-operation of SETUP_SEQ. -/
theorem setupSeq_uncontrolled (P : Params) : ∀ m ∈ setupSeq P, Uncontrolled m.2 := by
  simp only [setupSeq, List.forall_mem_cons]
  exact ⟨suReseed_uncontrolled, suClamp_uncontrolled, suClear_uncontrolled, suPeriod_uncontrolled P,
    suSlide_uncontrolled P, suArp_uncontrolled P, suDuty_uncontrolled P, suFilter_uncontrolled P,
    suVibrato_uncontrolled P, suEnvlen_uncontrolled P, suPhaser_uncontrolled P, suRepeat_uncontrolled P,
    suNoise_uncontrolled P, nofun⟩

/-- Every micro-operation of an outer sample before the sub-samples. -/
theorem sampleSeq_uncontrolled (P : Params) : ∀ m ∈ sampleSeq P, Uncontrolled m.2 := by
  simp only [sampleSeq, List.forall_mem_cons]
  exact ⟨psRepeat_uncontrolled P, psArp_uncontrolled P, psSlide_uncontrolled P, psVibrato_uncontrolled P,
    psPeriod_uncontrolled P, psDuty_uncontrolled P, psEnv_uncontrolled P, psPhaserTap_uncontrolled P,
    psHpSweep_uncontrolled P, psSsclr_uncontrolled, nofun⟩

/-- Every micro-operation of a sub-sample. -/
theorem subSampleSeq_uncontrolled (P : Params) : ∀ m ∈ subSampleSeq P, Uncontrolled m.2 := by
  simp only [subSampleSeq, List.forall_mem_cons]
  exact ⟨ssPhase_uncontrolled P, ssWave_uncontrolled P, ssLpf_uncontrolled P, ssHpf_uncontrolled P,
    ssPhaser_uncontrolled P, ssAcc_uncontrolled P, nofun⟩

/-- The operations of a sequence, one after another, without the loads of `upc`. -/
def plain : List MicroOp → State → State
  | [], s => s
  | (_, f) :: rest, s => plain rest (f s)

/-- The `upc` after a sequence: that of its last micro-operation. -/
def lastUpc : BitVec 8 → List MicroOp → BitVec 8
  | u, [] => u
  | _, (u, _) :: rest => lastUpc u rest

theorem plain_uncontrolled : ∀ {l : List MicroOp}, (∀ m ∈ l, Uncontrolled m.2) → Uncontrolled (plain l) := by
  intro l
  induction l with
  | nil => intro _ c s; rfl
  | cons m rest ih =>
    intro h c s
    show plain rest (m.2 (State.control c s)) = _
    rw [h m List.mem_cons_self c s]
    exact ih (fun m' hm => h m' (List.mem_cons_of_mem _ hm)) c (m.2 s)

/-- A sequence is its plain operations, and leaves the id of its last one in `upc`. -/
theorem performSeq_eq_plain : ∀ {l : List MicroOp}, (∀ m ∈ l, Uncontrolled m.2) → ∀ s : State,
    performSeq l s = State.control (s.setUpc (lastUpc s.seq.upc l)) (plain l s) := by
  intro l
  induction l with
  | nil => intro _ s; rfl
  | cons m rest ih =>
    intro h s
    obtain ⟨u, f⟩ := m
    have hf : Uncontrolled f := h (u, f) List.mem_cons_self
    have hr : ∀ m ∈ rest, Uncontrolled m.2 := fun m' hm => h m' (List.mem_cons_of_mem _ hm)
    rw [performSeq_cons, ih hr, setUpc_eq_control s u, hf, plain_uncontrolled hr, control_control]
    rfl

/-- An operation that commutes with the control part leaves it as it is. -/
theorem Uncontrolled.keeps {f : State → State} (h : Uncontrolled f) (s : State) : f s = State.control s (f s) :=
  (congrArg f (control_self s).symm).trans (h s s)

/-- Executing one list of instructions after another. -/
theorem execSeq_append : ∀ (is js : List Instr) {s u : State}, execSeq is s = .next u →
    execSeq (is ++ js) s = execSeq js u := by
  intro is
  induction is with
  | nil => intro js s u h; injection h with h; subst h; rfl
  | cons i is ih =>
    intro js s u h
    show (match exec i s with | .next t => execSeq (is ++ js) t | .fault r => _ | .refused r => _) = _
    unfold execSeq at h
    cases he : exec i s with
    | next t => rw [he] at h; exact ih js h
    | fault r => exact nomatch r
    | refused r => rw [he] at h; exact nomatch h

/-- The micro-operations of an outer sample one after another, without the loads of `upc` and `si`. -/
def plainSample (P : Params) (s : State) : State :=
  let sub := plain (subSampleSeq P)
  poOut P (sub (sub (sub (sub (sub (sub (sub (sub (plain (sampleSeq P) s)))))))))

theorem plainSample_uncontrolled (P : Params) : Uncontrolled (plainSample P) := by
  have ha := plain_uncontrolled (sampleSeq_uncontrolled P)
  have hb := plain_uncontrolled (subSampleSeq_uncontrolled P)
  have ho := poOut_uncontrolled P
  intro c s
  unfold plainSample
  generalize plain (sampleSeq P) = f at ha ⊢
  generalize plain (subSampleSeq P) = g at hb ⊢
  dsimp only
  simp only [ha c, hb c, ho c]

/-- OUTER_SAMPLE is its plain operations, and leaves the id of PO_OUT in `upc` and 7 in `si`. -/
theorem outerSample_eq_plain (P : Params) (s : State) :
    outerSample P s = State.control ((s.setSi 7#3).setUpc 0x40#8) (plainSample P s) := by
  have e1 := performSeq_eq_plain (sampleSeq_uncontrolled P)
  have e2 := performSeq_eq_plain (subSampleSeq_uncontrolled P)
  have hb := plain_uncontrolled (subSampleSeq_uncontrolled P)
  have ho := poOut_uncontrolled P
  unfold outerSample plainSample
  rw [e1 s]
  generalize plain (sampleSeq P) s = t
  generalize plain (subSampleSeq P) = g at e2 hb ⊢
  have eb : ∀ j u t k, performSeq (subSampleSeq P) ((State.control ((s.setSi j).setUpc u) t).setSi k) =
      State.control ((s.setSi k).setUpc 0x35#8) (g t) := by
    intro j u t k
    show performSeq (subSampleSeq P) (State.control ((s.setSi k).setUpc u) t) = _
    rw [e2, hb, control_control]; rfl
  have eo : ∀ c t, performSeq (outputSeq P) (State.control c t) = State.control (c.setUpc 0x40#8) (poOut P t) :=
    fun c t => ho (c.setUpc 0x40#8) t
  show performSeq _ (subSamples P 8 0 (State.control ((s.setSi s.seq.si).setUpc 0x29#8) t)) = _
  iterate 8 (unfold subSamples; rw [eb])
  unfold subSamples
  rw [eo]
  rfl

end Sys2Proof.Machine
end

