-- ==== Sys2Proof/Laws/PerInstr.lean ====
section
/-! SUPPORT. The round trip of the encoder and the decoder, one lemma per instruction: a well-formed instruction's
bytes decode, in its own format, to that instruction. -/

namespace Sys2Proof.Laws.RoundTrip

/-- The bytes of the instruction, read in its format, are the instruction. -/
def Statement (i : Instr) : Prop := i.wellFormed = true → decode i.format (encode i) = .ok i

/-- A word's four bytes, joined, are the word. -/
theorem le32_bytes32 (w : BitVec 32) :
    le32 (w.extractLsb' 0 8) (w.extractLsb' 8 8) (w.extractLsb' 16 8) (w.extractLsb' 24 8) = w :=
  Sys2Proof.Machine.join_bytes w

/-- A word's two halves, joined, are the word. -/
theorem join_halves (w : BitVec 64) : w.extractLsb' 32 32 ++ w.extractLsb' 0 32 = w := by
  apply BitVec.eq_of_getLsbD_eq
  intro i hi
  simp only [BitVec.getLsbD_append, BitVec.getLsbD_extractLsb']
  by_cases h : i < 32
  · simp [h]
  · have h2 : i - 32 < 32 := by omega
    simp only [h, h2, if_false, decide_true, Bool.true_and]; congr 1; omega

/-- The decoder reads a transaction from its bytes as from its word. -/
theorem decode_txn_bytes64 (w : BitVec 64) : decode .txn (bytes64 w) = decodeTxn w := by
  show decodeTxn (le64 _ _ _ _ _ _ _ _) = _
  unfold le64
  rw [le32_bytes32, le32_bytes32, join_halves]

/-- The decoder reads a waveform selector from its bytes as from its word. -/
theorem decode_wavesel_bytes32 (w : BitVec 32) : decode .wavesel (bytes32 w) = .ok (decodeWave w) := by
  show Except.ok (decodeWave (le32 _ _ _ _)) = _
  rw [le32_bytes32]

/-- The decoder reads a command from its bytes as from its word. -/
theorem decode_cmdw_bytes32 (w : BitVec 32) : decode .cmdw (bytes32 w) = .ok (decodeCmd w) := by
  show Except.ok (decodeCmd (le32 _ _ _ _)) = _
  rw [le32_bytes32]

/-- The fields of a transaction word (30_encoding.md R127). -/
theorem txnWord_fields (write : Bool) (off : BitVec 16) (data : BitVec 32) :
    (txnWord write off data).extractLsb' 48 15 = 0#15 ∧
    (txnWord write off data).extractLsb' 63 1 = BitVec.ofBool write ∧
    (txnWord write off data).extractLsb' 32 16 = off ∧
    (txnWord write off data).extractLsb' 0 32 = data := by
  unfold txnWord
  refine ⟨?_, ?_, ?_, ?_⟩ <;>
  · apply BitVec.eq_of_getLsbD_eq
    intro i hi
    simp only [BitVec.getLsbD_append, BitVec.getLsbD_extractLsb', hi, decide_true, Bool.true_and]
    first
    | (rw [if_pos (by omega)]; congr 1; omega)
    | (rw [if_neg (by omega), if_pos (by omega)]; congr 1; omega)
    | (rw [if_neg (by omega), if_neg (by omega), if_pos (by omega)]; simp)
    | (rw [if_neg (by omega), if_neg (by omega), if_neg (by omega)]; congr 1; omega)

theorem nop : Statement .nop := fun _ => rfl

theorem setup : Statement .setup := fun _ => rfl

theorem step : Statement .step := fun _ => rfl

theorem run : Statement .run := fun _ => rfl

theorem abort : Statement .abort := fun _ => rfl

theorem clrerr : Statement .clrerr := fun _ => rfl

theorem reserved6 : Statement .reserved6 := fun _ => rfl

theorem reserved7 : Statement .reserved7 := fun _ => rfl

theorem reserved8 : Statement .reserved8 := fun _ => rfl

theorem reserved9 : Statement .reserved9 := fun _ => rfl

theorem reservedA : Statement .reservedA := fun _ => rfl

theorem reservedB : Statement .reservedB := fun _ => rfl

theorem reservedC : Statement .reservedC := fun _ => rfl

theorem reservedD : Statement .reservedD := fun _ => rfl

theorem reservedE : Statement .reservedE := fun _ => rfl

theorem reservedF : Statement .reservedF := fun _ => rfl

theorem idle : Statement .idle := fun _ => rfl

theorem suReseed : Statement .suReseed := fun _ => rfl

theorem suClamp : Statement .suClamp := fun _ => rfl

theorem suClear : Statement .suClear := fun _ => rfl

theorem suPeriod : Statement .suPeriod := fun _ => rfl

theorem suSlide : Statement .suSlide := fun _ => rfl

theorem suArp : Statement .suArp := fun _ => rfl

theorem suDuty : Statement .suDuty := fun _ => rfl

theorem suFilter : Statement .suFilter := fun _ => rfl

theorem suVibrato : Statement .suVibrato := fun _ => rfl

theorem suEnvlen : Statement .suEnvlen := fun _ => rfl

theorem suPhaser : Statement .suPhaser := fun _ => rfl

theorem suRepeat : Statement .suRepeat := fun _ => rfl

theorem suNoise : Statement .suNoise := fun _ => rfl

theorem psRepeat : Statement .psRepeat := fun _ => rfl

theorem psArp : Statement .psArp := fun _ => rfl

theorem psSlide : Statement .psSlide := fun _ => rfl

theorem psVibrato : Statement .psVibrato := fun _ => rfl

theorem psPeriod : Statement .psPeriod := fun _ => rfl

theorem psDuty : Statement .psDuty := fun _ => rfl

theorem psEnv : Statement .psEnv := fun _ => rfl

theorem psPhaserTap : Statement .psPhaserTap := fun _ => rfl

theorem psHpSweep : Statement .psHpSweep := fun _ => rfl

theorem psSsclr : Statement .psSsclr := fun _ => rfl

theorem ssPhase : Statement .ssPhase := fun _ => rfl

theorem ssWave : Statement .ssWave := fun _ => rfl

theorem ssLpf : Statement .ssLpf := fun _ => rfl

theorem ssHpf : Statement .ssHpf := fun _ => rfl

theorem ssPhaser : Statement .ssPhaser := fun _ => rfl

theorem ssAcc : Statement .ssAcc := fun _ => rfl

theorem poOut : Statement .poOut := fun _ => rfl

theorem wr (off : BitVec 16) (data : BitVec 32) : Statement (.wr off data) := by
  intro _
  obtain ⟨h1, h2, h3, h4⟩ := txnWord_fields true off data
  show decode .txn (bytes64 (txnWord true off data)) = _
  rw [decode_txn_bytes64, decodeTxn, h1, h2, h3, h4]
  rfl

theorem rd (off : BitVec 16) : Statement (.rd off) := by
  intro _
  obtain ⟨h1, h2, h3, h4⟩ := txnWord_fields false off 0#32
  show decode .txn (bytes64 (txnWord false off 0#32)) = _
  rw [decode_txn_bytes64, decodeTxn, h1, h2, h3, h4]
  rfl

theorem waveSquare : Statement .waveSquare := fun _ => rfl

theorem waveSawtooth : Statement .waveSawtooth := fun _ => rfl

theorem waveSine : Statement .waveSine := fun _ => rfl

theorem waveNoise : Statement .waveNoise := fun _ => rfl

theorem waveOther (sel : I32) : Statement (.waveOther sel) := by
  intro h
  have h4 : 4 ≤ sel.toNat := by
    have h' : otherSelector sel = true := h
    simpa [otherSelector, BitVec.ule] using h'
  show decode .wavesel (bytes32 sel) = _
  rw [decode_wavesel_bytes32, decodeWave]
  split <;> first | omega | rfl

end Sys2Proof.Laws.RoundTrip
end

