-- ==== Sys2Proof/Laws/Record.lean ====
section
/-! SUPPORT. The parameter record as bytes and as words, said once: four bytes are a word and a word is four bytes, a list
of words is read back from its bytes, and bytes that read as words are the bytes of those words. -/

namespace Sys2Proof.Machine

/-- The bits of a word that is four bytes. -/
theorem getLsbD_le32 (b0 b1 b2 b3 : Byte) (i : Nat) : (le32 b0 b1 b2 b3).getLsbD i =
    if i < 8 then b0.getLsbD i else if i < 16 then b1.getLsbD (i - 8) else if i < 24 then b2.getLsbD (i - 16)
    else b3.getLsbD (i - 24) := by
  have h : (b3 ++ b2 ++ b1 ++ b0).getLsbD i = _ := BitVec.getLsbD_append
  refine h.trans ?_
  rw [BitVec.getLsbD_append, BitVec.getLsbD_append]
  split_ifs <;> first | omega | rfl

/-- The bytes of a word that is four bytes are those four. -/
theorem bytes32_le32 (b0 b1 b2 b3 : Byte) : bytes32 (le32 b0 b1 b2 b3) = [b0, b1, b2, b3] := by
  unfold bytes32
  simp only [List.cons.injEq, and_true]
  refine ⟨?_, ?_, ?_, ?_⟩ <;>
  · apply BitVec.eq_of_getLsbD_eq
    intro i hi
    rw [BitVec.getLsbD_extractLsb', getLsbD_le32, decide_eq_true hi, Bool.true_and]
    split_ifs <;> first | omega | (congr 1; omega)

/-- Words are read back from their bytes. -/
theorem wordsOfBytes_bytes32 : ∀ words : List (BitVec 32), wordsOfBytes (words.flatMap bytes32) = some words
  | [] => rfl
  | w :: rest => by
    show (wordsOfBytes (rest.flatMap bytes32)).map (le32 _ _ _ _ :: ·) = _
    rw [wordsOfBytes_bytes32 rest, Laws.RoundTrip.le32_bytes32]
    rfl

/-- Bytes that come in fours are the bytes of the words they read as. -/
theorem bytes32_wordsOfBytes : ∀ (n : Nat) (bytes : List Byte), bytes.length = 4 * n →
    ∃ words, wordsOfBytes bytes = some words ∧ words.length = n ∧ words.flatMap bytes32 = bytes
  | 0, [], _ => ⟨[], rfl, rfl, rfl⟩
  | n + 1, b0 :: b1 :: b2 :: b3 :: rest, h => by
    obtain ⟨words, h1, h2, h3⟩ := bytes32_wordsOfBytes n rest (by simp only [List.length_cons] at h; omega)
    refine ⟨le32 b0 b1 b2 b3 :: words, by rw [wordsOfBytes, h1]; rfl, by rw [List.length_cons, h2], ?_⟩
    rw [List.flatMap_cons, h3, bytes32_le32]
    rfl

/-- Storing the words of a record in any record gives it. -/
theorem setWords_words (p q : Prm) : q.setWords 0 p.words = p := by
  simp only [Prm.words, Prm.setWords, Prm.setWord]

/-- The record whose fields are 24 given words has those words. -/
theorem words_setWords (p : Prm) (words : List (BitVec 32)) (h : words.length = 24) :
    (p.setWords 0 words).words = words := by
  match words, h with
  | [_, _, _, _, _, _, _, _, _, _, _, _, _, _, _, _, _, _, _, _, _, _, _, _], _ => rfl

end Sys2Proof.Machine
end

