-- ==== Sys2Proof/Laws/Sine.lean ====
section
/-! SUPPORT. The enclosure of the default sine holds the real sine: the partial sum and its remainder, the constant
`piAngle`, the reduction by half turns, and then the enclosure, said once (`sineEnclosure_encloses`). -/

namespace Sys2Proof.Machine

/-! ## The series -/

/-- The partial sum of the sine's series, `m` terms after the first. -/
noncomputable def sinePartial (m : Nat) (z : ℝ) : ℝ :=
  ∑ i ∈ Finset.range (m + 1), (-1) ^ i * z ^ (2 * i + 1) / (2 * i + 1).factorial

/-- The denominator of the nested series is positive. -/
theorem sineTail_den_pos {sq den : Nat} (hd : 0 < den) : ∀ (m j : Nat), 0 < j → 0 < (sineTail sq den m j).2
  | 0, _, _ => Nat.one_pos
  | m + 1, j, hj => by
    have := sineTail_den_pos (sq := sq) hd m (j + 1) (Nat.succ_pos j)
    show 0 < (sineTail sq den m (j + 1)).2 * den * (2 * j * (2 * j + 1))
    positivity

/-- The nested series, unfolded. -/
theorem sineTail_value {sq den : Nat} (hd : 0 < den) : ∀ (m j : Nat), 0 < j →
    ((sineTail sq den m j).1 : ℝ) / (sineTail sq den m j).2 =
      ∑ i ∈ Finset.range (m + 1), (-1) ^ i * ((sq : ℝ) / den) ^ i * (2 * j - 1).factorial / (2 * j - 1 + 2 * i).factorial
  | 0, j, _ => by
    have h : ((2 * j - 1).factorial : ℝ) ≠ 0 := by exact_mod_cast Nat.factorial_ne_zero _
    simp [sineTail, div_self h]
  | m + 1, j, hj => by
    have ih := sineTail_value (sq := sq) hd m (j + 1) (Nat.succ_pos j)
    have hp := sineTail_den_pos (sq := sq) hd m (j + 1) (Nat.succ_pos j)
    set t := sineTail sq den m (j + 1) with ht
    have h1 : ((sineTail sq den (m + 1) j).1 : ℝ) / (sineTail sq den (m + 1) j).2 =
        1 - (sq : ℝ) / den / (2 * j * (2 * j + 1)) * ((t.1 : ℝ) / t.2) := by
      have hd' : (den : ℝ) ≠ 0 := by exact_mod_cast hd.ne'
      have ht' : (t.2 : ℝ) ≠ 0 := by exact_mod_cast hp.ne'
      have hj' : (j : ℝ) ≠ 0 := by exact_mod_cast hj.ne'
      have hj2 : (2 * (j : ℝ) + 1) ≠ 0 := by positivity
      simp only [sineTail, ← ht]
      push_cast
      field_simp
    rw [h1, ih, Finset.sum_range_succ' _ (m + 1), Finset.mul_sum, sub_eq_neg_add, ← Finset.sum_neg_distrib]
    have h0 : ((2 * j - 1).factorial : ℝ) ≠ 0 := by exact_mod_cast Nat.factorial_ne_zero _
    congr 1
    · refine Finset.sum_congr rfl fun i _ => ?_
      have e1 : 2 * (j + 1) - 1 = 2 * j - 1 + 1 + 1 := by omega
      have e2 : 2 * (j + 1) - 1 + 2 * i = 2 * j - 1 + 2 * (i + 1) := by omega
      have e3 : ((2 * (j + 1) - 1).factorial : ℝ) = (2 * j * (2 * j + 1)) * (2 * j - 1).factorial := by
        rw [e1, Nat.factorial_succ, Nat.factorial_succ]
        have : 2 * j - 1 + 1 = 2 * j := by omega
        rw [this]; push_cast; ring
      have hj' : (j : ℝ) ≠ 0 := by exact_mod_cast hj.ne'
      have hj2 : (2 * (j : ℝ) + 1) ≠ 0 := by positivity
      rw [e2, e3]
      generalize (sq : ℝ) / den = w
      field_simp
      ring
    · simp [div_self h0]

/-- An angle times its nested series is the partial sum. -/
theorem sineTail_partial (r : Int) (m : Nat) :
    (r * (sineTail (r.natAbs ^ 2) (2 ^ (2 * angleBits)) m 1).1 : ℝ) /
        (2 ^ angleBits * (sineTail (r.natAbs ^ 2) (2 ^ (2 * angleBits)) m 1).2) =
      sinePartial m (r / 2 ^ angleBits) := by
  have hv := sineTail_value (sq := r.natAbs ^ 2) (den := 2 ^ (2 * angleBits)) (by positivity) m 1 one_pos
  rw [mul_div_mul_comm, hv, sinePartial, Finset.mul_sum]
  refine Finset.sum_congr rfl fun i _ => ?_
  have hs : (((r.natAbs ^ 2 : Nat) : ℝ) / ((2 ^ (2 * angleBits) : Nat) : ℝ)) = (r / 2 ^ angleBits) ^ 2 := by
    have : ((r.natAbs : ℝ)) ^ 2 = (r : ℝ) ^ 2 := by
      rw [Nat.cast_natAbs, Int.cast_abs, sq_abs]
    push_cast
    rw [this, div_pow, ← pow_mul, mul_comm angleBits 2]
  rw [hs]
  have e : 2 * 1 - 1 + 2 * i = 2 * i + 1 := by omega
  rw [e, ← pow_mul]
  simp only [Nat.factorial]
  rw [pow_succ]
  ring

/-- The imaginary part of the exponential's partial sum is the sine's. -/
theorem exp_partial_im (z : ℝ) : ∀ m : Nat,
    (∑ k ∈ Finset.range (2 * m + 2), ((z : ℂ) * Complex.I) ^ k / k.factorial).im = sinePartial m z
  | 0 => by simp [sinePartial, Finset.sum_range_succ]
  | m + 1 => by
    have ih := exp_partial_im z m
    have h2 : ((z : ℂ) * Complex.I) ^ (2 * m + 2) = (((-1) ^ (m + 1) * z ^ (2 * m + 2) : ℝ) : ℂ) := by
      rw [mul_pow, show 2 * m + 2 = 2 * (m + 1) by ring, pow_mul Complex.I, Complex.I_sq]; push_cast; ring
    have h3 : ((z : ℂ) * Complex.I) ^ (2 * m + 3) = (((-1) ^ (m + 1) * z ^ (2 * m + 3) : ℝ) : ℂ) * Complex.I := by
      rw [pow_succ, h2]; push_cast; ring
    rw [show 2 * (m + 1) + 2 = (2 * m + 2) + 1 + 1 by ring, Finset.sum_range_succ, Finset.sum_range_succ, Complex.add_im,
      Complex.add_im, ih, h2, show 2 * m + 2 + 1 = 2 * m + 3 by ring, h3, sinePartial, sinePartial,
      Finset.sum_range_succ _ (m + 1)]
    have e : 2 * (m + 1) + 1 = 2 * m + 3 := by ring
    rw [e]
    have i2 : ((((-1) ^ (m + 1) * z ^ (2 * m + 2) : ℝ) : ℂ) / ((2 * m + 2).factorial : ℂ)).im = 0 := by
      rw [← Complex.ofReal_natCast, ← Complex.ofReal_div, Complex.ofReal_im]
    have i3 : ((((-1) ^ (m + 1) * z ^ (2 * m + 3) : ℝ) : ℂ) * Complex.I / ((2 * m + 3).factorial : ℂ)).im =
        (-1) ^ (m + 1) * z ^ (2 * m + 3) / (2 * m + 3).factorial := by
      rw [mul_div_right_comm, ← Complex.ofReal_natCast, ← Complex.ofReal_div, Complex.im_ofReal_mul, Complex.I_im, mul_one]
    rw [i2, i3, add_zero]

/-- The partial sum's remainder. -/
theorem sinePartial_error (m : Nat) (z : ℝ) (h : |z| ≤ m + 1) :
    |Real.sin z - sinePartial m z| ≤ |z| ^ (2 * m + 2) / (2 * m + 2).factorial * 2 := by
  have hn : ‖(z : ℂ) * Complex.I‖ = |z| := by simp
  have hb := Complex.exp_bound' (x := (z : ℂ) * Complex.I) (n := 2 * m + 2) (by
    rw [hn, div_le_iff₀ (by positivity)]; push_cast; linarith)
  rw [hn] at hb
  refine le_trans ?_ hb
  refine le_trans (le_of_eq ?_) (Complex.abs_im_le_norm _)
  rw [Complex.sub_im, exp_partial_im, Complex.exp_ofReal_mul_I_im]

/-- The remainder at a half turn, or a little more: below one angle unit. -/
theorem sinePartial_error_le (z : ℝ) (h : |z| ≤ 2) :
    |Real.sin z - sinePartial sineTerms z| ≤ 1 / 2 ^ angleBits := by
  refine le_trans (sinePartial_error sineTerms z (by simp only [sineTerms]; push_cast; linarith)) ?_
  have h1 : |z| ^ (2 * sineTerms + 2) ≤ 2 ^ 98 := pow_le_pow_left₀ (abs_nonneg z) h _
  have h2 : (2 * 2 ^ 98 * 2 ^ angleBits : Nat) ≤ (2 * sineTerms + 2).factorial := by decide +kernel
  have h3 : (2 * 2 ^ 98 * 2 ^ angleBits : ℝ) ≤ ((2 * sineTerms + 2).factorial : ℝ) := by exact_mod_cast h2
  have h4 : (0 : ℝ) < ((2 * sineTerms + 2).factorial : ℝ) := by exact_mod_cast Nat.factorial_pos _
  rw [div_mul_eq_mul_div, div_le_div_iff₀ h4 (by positivity)]
  nlinarith [h1, h3, (by positivity : (0 : ℝ) < 2 ^ angleBits)]

/-! ## The constant -/

/-- The sign of a sine whose partial sum outweighs the remainder. -/
theorem sine_sign {z : ℝ} (hz : |z| ≤ 4) {a : Int} {d : Nat} (hd : 0 < d) (hp : (a : ℝ) / d = sinePartial 100 z) :
    ((2 * 4 ^ 202 * d : Nat) < a * (Nat.factorial 202 : Int) → 0 < Real.sin z) ∧
    (a * (Nat.factorial 202 : Int) < -((2 * 4 ^ 202 * d : Nat) : Int) → Real.sin z < 0) := by
  have hb := sinePartial_error 100 z (hz.trans (by norm_num))
  rw [← hp] at hb
  have hd' : (0 : ℝ) < d := by exact_mod_cast hd
  have he : |z| ^ (2 * 100 + 2) / ((2 * 100 + 2).factorial : ℝ) * 2 ≤ 2 * 4 ^ 202 / (Nat.factorial 202 : ℝ) := by
    rw [mul_comm, mul_div_assoc]
    gcongr
  have hf : (0 : ℝ) < (Nat.factorial 202 : ℝ) := by exact_mod_cast Nat.factorial_pos _
  have hb' := abs_le.mp (hb.trans he)
  generalize Nat.factorial 202 = f at *
  constructor <;> intro h
  · have h' : 2 * 4 ^ 202 * (d : ℝ) < a * f := by exact_mod_cast h
    have : 2 * 4 ^ 202 / (f : ℝ) < a / d := by rw [div_lt_div_iff₀ hf hd']; exact h'
    linarith [hb'.1]
  · have h' : a * (f : ℝ) < -(2 * 4 ^ 202 * d) := by exact_mod_cast h
    have : a / d < -(2 * 4 ^ 202 / (f : ℝ)) := by rw [← neg_div, div_lt_div_iff₀ hd' hf]; linarith
    linarith [hb'.2]

/-- The same for an angle below 4. -/
theorem sine_sign_angle (r : Nat) (hr : r ≤ 4 * 2 ^ angleBits) :
    ((2 * 4 ^ 202 * (2 ^ angleBits * (sineTail (r ^ 2) (2 ^ (2 * angleBits)) 100 1).2) : Nat) <
        r * (sineTail (r ^ 2) (2 ^ (2 * angleBits)) 100 1).1 * (Nat.factorial 202 : Int) →
      0 < Real.sin (r / 2 ^ angleBits)) ∧
    (r * (sineTail (r ^ 2) (2 ^ (2 * angleBits)) 100 1).1 * (Nat.factorial 202 : Int) <
        -((2 * 4 ^ 202 * (2 ^ angleBits * (sineTail (r ^ 2) (2 ^ (2 * angleBits)) 100 1).2) : Nat) : Int) →
      Real.sin (r / 2 ^ angleBits) < 0) := by
  have ht := sineTail_den_pos (sq := r ^ 2) (den := 2 ^ (2 * angleBits)) (Nat.two_pow_pos _) 100 1 one_pos
  have hp := sineTail_partial (r : Int) 100
  rw [Int.natAbs_natCast, Int.cast_natCast] at hp
  generalize sineTail (r ^ 2) (2 ^ (2 * angleBits)) 100 1 = t at *
  refine sine_sign ?_ (Nat.mul_pos (Nat.two_pow_pos _) ht) ?_
  · rw [abs_of_nonneg (by positivity), div_le_iff₀ (by positivity)]
    exact_mod_cast hr
  · rw [← hp]; push_cast; rfl

/-- The constant is π, cut off. -/
theorem piAngle_le : (piAngle : ℝ) / 2 ^ angleBits ≤ Real.pi := by
  have h := (sine_sign_angle piAngle (by decide +kernel)).1 (by decide +kernel)
  by_contra hlt
  rw [not_le] at hlt
  have h4 : (piAngle : ℝ) / 2 ^ angleBits ≤ 4 := by
    rw [div_le_iff₀ (by positivity)]
    have : piAngle ≤ 4 * 2 ^ angleBits := by decide +kernel
    exact_mod_cast this
  have := Real.sin_pos_of_pos_of_lt_pi (x := (piAngle : ℝ) / 2 ^ angleBits - Real.pi) (by linarith)
    (by linarith [Real.pi_gt_three])
  rw [Real.sin_sub_pi] at this
  linarith

theorem lt_piAngle : Real.pi ≤ ((piAngle + 1 : Nat) : ℝ) / 2 ^ angleBits := by
  have h := (sine_sign_angle (piAngle + 1) (by decide +kernel)).2 (by decide +kernel)
  by_contra hlt
  rw [not_le] at hlt
  have := Real.sin_nonneg_of_nonneg_of_le_pi (x := ((piAngle + 1 : Nat) : ℝ) / 2 ^ angleBits) (by positivity) hlt.le
  linarith

/-! ## The enclosure -/

/-- What is left of an angle after the half turns is at most half a half turn. -/
theorem halfTurns_rest (angle : Int) : |2 * (angle - halfTurns angle * piAngle)| ≤ piAngle := by
  have hp : (0 : Int) < 2 * piAngle := by decide +kernel
  unfold halfTurns
  have h1 := Int.emod_add_mul_ediv (2 * angle + piAngle) (2 * piAngle)
  have h2 := Int.emod_nonneg (2 * angle + piAngle) hp.ne'
  have h3 := Int.emod_lt_of_pos (2 * angle + piAngle) hp
  rw [abs_le]
  constructor <;> nlinarith

/-- The real sine of an angle lies in its enclosure. -/
theorem sineEnclosure_encloses (angle : Int) : let e := sineEnclosure angle
    0 < e.den ∧ (e.low : ℝ) / e.den ≤ Real.sin (angle / 2 ^ angleBits) ∧
      Real.sin (angle / 2 ^ angleBits) ≤ (e.high : ℝ) / e.den := by
  intro e
  set k := halfTurns angle with hk
  set r := angle - k * piAngle with hr
  set t := sineTail (r.natAbs ^ 2) (2 ^ (2 * angleBits)) sineTerms 1 with ht
  have htp : 0 < t.2 := sineTail_den_pos (by positivity) _ _ one_pos
  have hden : e.den = 2 ^ angleBits * t.2 := rfl
  have hdp : (0 : ℝ) < 2 ^ angleBits * t.2 := by positivity
  have hq : (0 : ℝ) < 2 ^ angleBits := by positivity
  -- the rest is within the series' range
  have hr2 : |(r : ℝ) / 2 ^ angleBits| ≤ 2 := by
    rw [abs_div, abs_of_pos hq, div_le_iff₀ hq]
    have h1 := halfTurns_rest angle
    rw [← hk, ← hr, abs_mul] at h1
    have h2 : (piAngle : Int) ≤ 4 * 2 ^ angleBits := by decide +kernel
    have h3 : |r| ≤ 2 * 2 ^ angleBits := by
      have : (2 : Int) * |r| ≤ 4 * 2 ^ angleBits := by simpa using h1.trans h2
      linarith
    exact_mod_cast h3
  have hs := sinePartial_error_le _ hr2
  rw [← sineTail_partial r sineTerms, ← ht] at hs
  -- the reduction
  have hred : |Real.sin (angle / 2 ^ angleBits - k * Real.pi) - Real.sin (r / 2 ^ angleBits)| ≤ k.natAbs / 2 ^ angleBits := by
    refine (Real.abs_sin_sub_sin_le _ _).trans ?_
    have e1 : (angle : ℝ) / 2 ^ angleBits - k * Real.pi - r / 2 ^ angleBits =
        -(k * (Real.pi - piAngle / 2 ^ angleBits)) := by
      rw [hr]; push_cast; ring
    rw [e1, abs_neg, abs_mul, abs_of_nonneg (by linarith [piAngle_le] : (0 : ℝ) ≤ Real.pi - piAngle / 2 ^ angleBits),
      Nat.cast_natAbs, Int.cast_abs, div_eq_mul_one_div |(k : ℝ)|]
    refine mul_le_mul_of_nonneg_left ?_ (abs_nonneg _)
    have h := lt_piAngle
    rw [Nat.cast_add, Nat.cast_one, add_div] at h
    exact sub_le_iff_le_add'.mpr h
  have hall : |Real.sin (angle / 2 ^ angleBits - k * Real.pi) - r * t.1 / (2 ^ angleBits * t.2)| ≤
      ((k.natAbs + 1 : Nat) * t.2 : ℝ) / (2 ^ angleBits * t.2) := by
    have e2 : ((k.natAbs + 1 : Nat) * t.2 : ℝ) / (2 ^ angleBits * t.2) = k.natAbs / 2 ^ angleBits + 1 / 2 ^ angleBits := by
      have : (t.2 : ℝ) ≠ 0 := by positivity
      push_cast
      field_simp
    rw [e2]
    exact (abs_sub_le _ _ _).trans (add_le_add hred hs)
  rw [Real.sin_sub_int_mul_pi] at hall
  have hb := abs_le.mp hall
  have hlow : (e.low : ℝ) = ((if k % 2 = 0 then r * t.1 else -(r * t.1) : Int) : ℝ) - (k.natAbs + 1 : Nat) * t.2 := by
    show (((if k % 2 = 0 then r * t.1 else -(r * t.1)) - (k.natAbs + 1 : Nat) * t.2 : Int) : ℝ) = _
    rw [Int.cast_sub, Int.cast_mul, Int.cast_natCast, Int.cast_natCast]
  have hhigh : (e.high : ℝ) = ((if k % 2 = 0 then r * t.1 else -(r * t.1) : Int) : ℝ) + (k.natAbs + 1 : Nat) * t.2 := by
    show (((if k % 2 = 0 then r * t.1 else -(r * t.1)) + (k.natAbs + 1 : Nat) * t.2 : Int) : ℝ) = _
    rw [Int.cast_add, Int.cast_mul, Int.cast_natCast, Int.cast_natCast]
  refine ⟨by rw [hden]; positivity, ?_⟩
  rw [hlow, hhigh, hden]
  push_cast at hb ⊢
  rw [sub_div, add_div]
  rcases Int.emod_two_eq_zero_or_one k with h | h
  · rw [if_pos h, (Int.even_iff.mpr h).neg_one_zpow, one_mul] at *
    constructor <;> linarith [hb.1, hb.2]
  · rw [if_neg (by omega)]
    rw [(Int.odd_iff.mpr h).neg_one_zpow] at hb
    rw [neg_div]
    constructor <;> linarith [hb.1, hb.2]

/-- A signed number with more fraction bits. -/
theorem signed_shift (neg : Bool) (units b : Nat) :
    ((signed neg (units * 2 ^ b) : Int) : ℝ) = signed neg units * 2 ^ b := by
  cases neg <;> simp [signed]

/-- Fraction bits that a number does not use. -/
theorem div_two_pow_shift (x : ℝ) {a b c : Nat} (h : c = a + b) : x * 2 ^ b / 2 ^ c = x / 2 ^ a := by
  rw [h, pow_add, mul_div_mul_right _ _ (by positivity)]

/-- The angle of a binary32 number is the number. -/
theorem angleOf_value (neg : Bool) (units : Nat) :
    (angleOf neg units : ℝ) / 2 ^ angleBits = signed neg units / 2 ^ binary32.unit := by
  unfold angleOf
  rw [signed_shift]
  exact div_two_pow_shift _ (by decide +kernel)

/-- A settled sine is what both ends of an enclosure of the real sine round to. -/
theorem sineRounded_spec {neg : Bool} {units pat : Nat} (h0 : units ≠ 0) (h : sineRounded neg units = some pat) :
    ∃ e : Enclosure, 0 < e.den ∧ binary32.roundRatio e.low e.den = pat ∧ binary32.roundRatio e.high e.den = pat ∧
      (e.low : ℝ) / e.den ≤ Real.sin (signed neg units / 2 ^ binary32.unit) ∧
      Real.sin (signed neg units / 2 ^ binary32.unit) ≤ (e.high : ℝ) / e.den := by
  obtain ⟨h1, h2, h3⟩ := sineEnclosure_encloses (angleOf neg units)
  rw [angleOf_value] at h2 h3
  unfold sineRounded at h
  rw [if_neg h0] at h
  generalize sineEnclosure (angleOf neg units) = e at *
  unfold Enclosure.rounded at h
  split_ifs at h with he
  exact ⟨e, h1, Option.some.inj h, he ▸ Option.some.inj h, h2, h3⟩

end Sys2Proof.Machine
end

