-- ==== Sys2Proof/Tests/Slice0.lean ====
section
/-! SUPPORT. Tests: ill-formed terms refused, words written out from the encoding tables, one step of each instruction
on values the spec prints (95_test_vectors.md and the "Example" part of each rule, named in each test), and for every
statement with hypotheses a state and operands that meet them. -/

namespace Sys2Proof.Tests

open Sys2Proof Sys2Proof.Machine

-- One theorem at a time: the kernel's evaluations below would otherwise each hold a thread.
set_option Elab.async false

/-! ## Helpers -/

/-- What `f` reads in the state an instruction gives. -/
def after {α : Type} (i : Instr) (s : State) (f : State → α) : Option α :=
  match exec i s with
  | .next t => some (f t)
  | .fault _ => none
  | .refused _ => none

/-- What `f` reads in the state a step gives. -/
def afterStep {α : Type} (s : State) (f : State → α) : Option α :=
  match step s with
  | .next t => some (f t)
  | .fault _ => none
  | .refused _ => none

/-- The reset state with other parameter registers. -/
def withPrm (p : Prm) : State := { State.reset with prm := p }

/-- The reset state with other Synthesis State registers. -/
def withSyn (y : Synth) : State := { State.reset with syn := y }

/-- The golden record (41_setup.md). -/
def golden : Prm :=
  { Prm.zero with
    randSeed := 12345#32, sustainTime := 0x3E99999A#32, decayTime := 0x3ECCCCCD#32,
    startFrequency := 0x3E99999A#32, lpfCutoff := 0x3F800000#32 }

/-- READY after the setup of a record, all but the noise fill, whose draws are free. -/
def ready (p : Prm) : State := { plain ((setupSeq specParams).take 12) (withPrm p) with run := .ready }

/-- RUNNING on the golden record, between engine transitions. -/
def running : State := { ready golden with run := .running }

/-- An oscillator on a waveform. -/
def oscillating (phase period waveType : I32) : State :=
  { withPrm { Prm.zero with waveType := waveType } with syn := { Synth.zero true with phase := phase, period := period } }

/-! ## WellFormed smoke: each check refuses an ill-formed term -/

theorem test_wf_wr_misaligned : (Instr.wr 0x0061#16 0#32).wellFormed = false := by decide
theorem test_wf_rd_misaligned : (Instr.rd 0x0002#16).wellFormed = false := by decide
theorem test_wf_other_selector : ∀ n : Fin 4, (Instr.waveOther (BitVec.ofNat 32 n)).wellFormed = false := by decide
theorem test_wf_boundary : (Instr.wr 0xFFFC#16 0#32).wellFormed = true ∧ (Instr.rd 0x0000#16).wellFormed = true ∧
    (Instr.waveOther 4#32).wellFormed = true := by decide

/-! ## Decoding: words written out from the tables -/

/-- 30_encoding.md R114, R115: CMD in the low four bits of the first byte. -/
theorem test_decode_commands :
    decode .cmdw [0x00#8, 0x00#8, 0x00#8, 0x00#8] = .ok .nop ∧
    decode .cmdw [0x01#8, 0x00#8, 0x00#8, 0x00#8] = .ok .setup ∧
    decode .cmdw [0x02#8, 0x00#8, 0x00#8, 0x00#8] = .ok .step ∧
    decode .cmdw [0x03#8, 0x00#8, 0x00#8, 0x00#8] = .ok .run ∧
    decode .cmdw [0x04#8, 0x00#8, 0x00#8, 0x00#8] = .ok .abort ∧
    decode .cmdw [0x05#8, 0x00#8, 0x00#8, 0x00#8] = .ok .clrerr ∧
    decode .cmdw [0xF0#8, 0xFF#8, 0xFF#8, 0xFF#8] = .ok .nop ∧
    decode .cmdw [0x12#8, 0x00#8, 0x00#8, 0x80#8] = .ok .step := by decide

/-- 30_encoding.md R116: the reserved opcodes. -/
theorem test_decode_reserved :
    decodeCmd 0x6#32 = .reserved6 ∧ decodeCmd 0x7#32 = .reserved7 ∧ decodeCmd 0x8#32 = .reserved8 ∧
    decodeCmd 0x9#32 = .reserved9 ∧ decodeCmd 0xA#32 = .reservedA ∧ decodeCmd 0xB#32 = .reservedB ∧
    decodeCmd 0xC#32 = .reservedC ∧ decodeCmd 0xD#32 = .reservedD ∧ decodeCmd 0xE#32 = .reservedE ∧
    decodeCmd 0xF#32 = .reservedF := by decide

/-- 30_encoding.md R120: IDLE and the setup ids. -/
theorem test_decode_setup_ids :
    decode .uop [0x00#8] = .ok .idle ∧ decode .uop [0x10#8] = .ok .suReseed ∧
    decode .uop [0x11#8] = .ok .suClamp ∧ decode .uop [0x12#8] = .ok .suClear ∧
    decode .uop [0x13#8] = .ok .suPeriod ∧ decode .uop [0x14#8] = .ok .suSlide ∧
    decode .uop [0x15#8] = .ok .suArp ∧ decode .uop [0x16#8] = .ok .suDuty ∧
    decode .uop [0x17#8] = .ok .suFilter ∧ decode .uop [0x18#8] = .ok .suVibrato ∧
    decode .uop [0x19#8] = .ok .suEnvlen ∧ decode .uop [0x1A#8] = .ok .suPhaser ∧
    decode .uop [0x1B#8] = .ok .suRepeat ∧ decode .uop [0x1C#8] = .ok .suNoise := by decide

/-- 30_encoding.md R120: the ids of an outer sample. -/
theorem test_decode_sample_ids :
    decode .uop [0x20#8] = .ok .psRepeat ∧ decode .uop [0x21#8] = .ok .psArp ∧
    decode .uop [0x22#8] = .ok .psSlide ∧ decode .uop [0x23#8] = .ok .psVibrato ∧
    decode .uop [0x24#8] = .ok .psPeriod ∧ decode .uop [0x25#8] = .ok .psDuty ∧
    decode .uop [0x26#8] = .ok .psEnv ∧ decode .uop [0x27#8] = .ok .psPhaserTap ∧
    decode .uop [0x28#8] = .ok .psHpSweep ∧ decode .uop [0x29#8] = .ok .psSsclr ∧
    decode .uop [0x30#8] = .ok .ssPhase ∧ decode .uop [0x31#8] = .ok .ssWave ∧
    decode .uop [0x32#8] = .ok .ssLpf ∧ decode .uop [0x33#8] = .ok .ssHpf ∧
    decode .uop [0x34#8] = .ok .ssPhaser ∧ decode .uop [0x35#8] = .ok .ssAcc ∧
    decode .uop [0x40#8] = .ok .poOut := by decide

/-- 30_encoding.md R127: the words of its text and of program P1, least significant byte first. -/
theorem test_decode_transactions :
    decode .txn [0x01#8, 0x00#8, 0x00#8, 0x00#8, 0x60#8, 0x00#8, 0x00#8, 0x80#8] = .ok (.wr 0x060#16 1#32) ∧
    decode .txn [0x00#8, 0x00#8, 0x00#8, 0x00#8, 0x6C#8, 0x00#8, 0x00#8, 0x00#8] = .ok (.rd 0x06C#16) ∧
    decodeTxn 0x8000000C3E99999A#64 = .ok (.wr 0x00C#16 0x3E99999A#32) := by decide

/-- 00_scope.md R23, R24: the selectors. -/
theorem test_decode_selectors :
    decode .wavesel [0x00#8, 0x00#8, 0x00#8, 0x00#8] = .ok .waveSquare ∧
    decode .wavesel [0x01#8, 0x00#8, 0x00#8, 0x00#8] = .ok .waveSawtooth ∧
    decode .wavesel [0x02#8, 0x00#8, 0x00#8, 0x00#8] = .ok .waveSine ∧
    decode .wavesel [0x03#8, 0x00#8, 0x00#8, 0x00#8] = .ok .waveNoise ∧
    decode .wavesel [0x07#8, 0x00#8, 0x00#8, 0x00#8] = .ok (.waveOther 7#32) ∧
    decode .wavesel [0x00#8, 0x00#8, 0x00#8, 0x80#8] = .ok (.waveOther 0x80000000#32) := by decide

/-- What the decoder refuses, by name. -/
theorem test_decode_refuses :
    decode .uop [0x1D#8] = .error .unusedMicroOp ∧ decode .uop [0x36#8] = .error .unusedMicroOp ∧
    decode .cmdw [0x01#8] = .error .wrongLength ∧ decode .uop [] = .error .wrongLength ∧
    decodeTxn 0x8001006000000001#64 = .error .txnReservedBits ∧
    decodeTxn 0x0000006C00000001#64 = .error .txnReadData := by decide

/-! ## Commands and the host window (95_test_vectors.md V21) -/

theorem test_v21_idle :
    after (.wr 0x060#16 2#32) State.reset statusWord = some 0x00000100#32 ∧
    after (.wr 0x060#16 3#32) State.reset statusWord = some 0x00000100#32 ∧
    after (.wr 0x060#16 7#32) State.reset statusWord = some 0x00000100#32 ∧
    after (.wr 0x060#16 0xFFFFFFF0#32) State.reset statusWord = some 0#32 ∧
    after .setup State.reset statusWord = some 0x00000005#32 := by decide +kernel

theorem test_v21_ready :
    after (.wr 0x014#16 0x3F000000#32) (ready golden) (fun t => (statusWord t, t.prm.decayTime)) =
      some (0x00000205#32, 0x3ECCCCCD#32) ∧
    after .abort (ready golden) statusWord = some 0x00000004#32 ∧
    after .run (ready golden) statusWord = some 0x00000006#32 := by decide +kernel

theorem test_v21_running : after .setup running (fun t => (statusWord t, t.syn.period)) =
    some (0x00000106#32, 1098#32) := by decide +kernel

/-- DONE after P1: STATUS 0x13. -/
def done : State := { withPrm golden with run := .done, termEnv := true }

theorem test_v21_done :
    after .step done statusWord = some 0x00000113#32 ∧
    after (.wr 0x00C#16 0x3F000000#32) done (fun t => (statusWord t, t.prm.sustainTime)) =
      some (0x00000013#32, 0x3F000000#32) ∧
    after .clrerr { done with cmdErr := true, wErr := true } statusWord = some 0x00000013#32 := by decide +kernel

theorem test_v21_reads :
    after (.rd 0x060#16) done State.hostRdata = some 0#32 ∧ after (.rd 0x080#16) done State.hostRdata = some 0#32 ∧
    after (.rd 0x070#16) done State.hostRdata = some 0x0000AC44#32 ∧
    after (.rd 0x074#16) done State.hostRdata = some 0x00000120#32 ∧
    after (.rd 0x078#16) done State.hostRdata = some 0x0006BAA8#32 ∧
    after (.rd 0x07C#16) done State.hostRdata = some 1#32 := by decide +kernel

/-- 40_control.md R143: the first sample of the golden record (V1). -/
theorem test_step_golden : after .step (ready golden)
    (fun t => (t.sampleOut, t.sampleCount, t.run, t.syn.phase, t.syn.ipp, t.syn.fltphp)) =
      some (0x3E4CCA70#32, 1#32, .ready, 8#32, 8#32, 0x3EFFFAC0#32) := by decide +kernel

/-- V10: the first sample of a sine wave with vibrato. -/
theorem test_step_sine : after .step (ready { golden with
      waveType := 2#32, vibratoDepth := 0x3F000000#32, vibratoSpeed := 0x3F000000#32 })
    (fun t => (t.syn.vibPhase, t.syn.period, t.sampleOut, t.syn.fltp)) =
      some (0x3B23D70A#32, 1099#32, 0x3C289165#32, 0x3D3B4680#32) := by decide +kernel

/-- 70_reset_and_hazards.md R354: the first sample of the all-zero record (V2). -/
theorem test_step_zero_record : after .step (ready Prm.zero) (fun t => (t.sampleOut, t.syn.envStage, t.syn.envVol)) =
    some (0xFFC00000#32, 1#32, 0xFFC00000#32) := by decide +kernel

/-! ## Setup micro-operations (the examples of 41_setup.md) -/

theorem test_suReseed : after .suReseed (withPrm golden) State.rng =
    some { seed := some 12345#32, draws := 0, total := 0 } := by decide +kernel

/-- 93_implementation_defined.md U7: under seed 0 no earlier seed governs the draws. -/
theorem test_suReseed_ambient : after .suReseed
      { State.reset with rng := { seed := some 12345#32, draws := 32, total := 32 } } State.rng =
    some { seed := none, draws := 0, total := 32 } := by decide +kernel

/-- V3. -/
theorem test_suClamp : after .suClamp (withPrm { golden with minFrequency := 0x3F000000#32, slide := 0xBF000000#32 })
    (fun t => (t.prm.minFrequency, t.prm.slide)) = some (0x3E99999A#32, 0#32) := by decide +kernel

theorem test_suClear : after .suClear running (fun t => (t.syn, t.sampleCount)) =
    some (Synth.zero true, 0#32) := by decide +kernel

theorem test_suPeriod : after .suPeriod (withPrm golden)
    (fun t => (t.syn.fperiod, t.syn.period, t.syn.fmaxperiod)) =
      some (0x40912B9AAE596760#64, 1098#32, 0x40F86A0000000000#64) := by decide +kernel

/-- V4. -/
theorem test_suSlide : after .suSlide (withPrm { golden with slide := 0xBE99999A#32, deltaSlide := 0xBE99999A#32 })
    (fun t => (t.syn.fslide, t.syn.fdslide)) = some (0x3FF0011B1D94EE39#64, 0x3E5CFDB451BCF271#64) := by
  decide +kernel

/-- V6: an amount of 0.5f and speed 0.5f, and an amount of -0.5f and speed 0.9f. -/
theorem test_suArp :
    after .suArp (withPrm { golden with changeAmount := 0x3F000000#32, changeSpeed := 0x3F000000#32 })
      (fun t => (t.syn.arpMod, t.syn.arpLimit)) = some (0x3FE8CCCCCCCCCCCD#64, 5032#32) ∧
    after .suArp (withPrm { golden with changeAmount := 0xBF000000#32, changeSpeed := 0x3F666666#32 })
      (fun t => (t.syn.arpMod, t.syn.arpLimit)) = some (0x400C000000000000#64, 232#32) := by decide +kernel

theorem test_suArp_sentinel : after .suArp (withPrm { golden with changeSpeed := 0x3F800000#32 })
    (fun t => t.syn.arpLimit) = some 0#32 ∧
    after .suArp (withPrm { golden with changeSpeed := 0x3F7FFFFF#32 }) (fun t => t.syn.arpLimit) = some 32#32 := by
  decide +kernel

/-- 41_setup.md R186: its example, and its corner case of a duty of 1. -/
theorem test_suDuty :
    after .suDuty (withPrm { golden with dutySweep := 0x3DCCCCCD#32 })
      (fun t => (t.syn.squareDuty, t.syn.squareSlide)) = some (0x3F000000#32, 0xB6A7C5AC#32) ∧
    after .suDuty (withPrm { golden with squareDuty := 0x3F800000#32 }) (fun t => t.syn.squareDuty) = some 0#32 := by
  decide +kernel

theorem test_suFilter : after .suFilter (withPrm { golden with lpfCutoff := 0x3F000000#32, lpfResonance := 0x3F000000#32 })
    (fun t => (t.syn.fltw, t.syn.fltwd, t.syn.fltdmp, t.syn.flthp, t.syn.flthpd)) =
      some (0x3C4CCCCD#32, 0x3F800000#32, 0x3C99999A#32, 0#32, 0x3F800000#32) := by decide +kernel

/-- V16 and V17: the two sweeps, and the high-pass coefficient of 0.5f. -/
theorem test_suFilter_sweeps : after .suFilter (withPrm { golden with
      lpfCutoff := 0x3F000000#32, lpfCutoffSweep := 0x3F800000#32, hpfCutoff := 0x3F000000#32,
      hpfCutoffSweep := 0x3F800000#32 })
    (fun t => (t.syn.fltwd, t.syn.fltdmp, t.syn.flthp, t.syn.flthpd)) =
      some (0x3F800347#32, 0x3DE66667#32, 0x3CCCCCCD#32, 0x3F8009D5#32) := by decide +kernel

theorem test_suVibrato : after .suVibrato (withPrm { golden with vibratoDepth := 0x3F000000#32, vibratoSpeed := 0x3F000000#32 })
    (fun t => (t.syn.vibSpeed, t.syn.vibAmp)) = some (0x3B23D70A#32, 0x3E800000#32) := by decide +kernel

theorem test_suEnvlen : after .suEnvlen (withPrm golden) (fun t => (t.syn.envLen0, t.syn.envLen1, t.syn.envLen2)) =
    some (0#32, 9000#32, 16000#32) := by decide +kernel

/-- V15. -/
theorem test_suPhaser :
    after .suPhaser (withPrm { golden with phaserOffset := 0xBF000000#32 })
      (fun t => (t.syn.fphase, t.syn.iphase)) = some (0xC37F0000#32, 255#32) ∧
    after .suPhaser (withPrm { golden with phaserOffset := 0x3F800000#32, phaserSweep := 0x3F000000#32 })
      (fun t => (t.syn.fphase, t.syn.fdphase)) = some (0x447F0000#32, 0x3E800000#32) := by decide +kernel

theorem test_suRepeat : after .suRepeat (withPrm { golden with repeatSpeed := 0x3F666666#32 })
    (fun t => t.syn.repLimit) = some 232#32 ∧
    after .suRepeat (withPrm { golden with repeatSpeed := 0x80000000#32 }) (fun t => t.syn.repLimit) = some 0#32 := by
  decide +kernel

theorem test_suNoise : after .suNoise (withPrm golden) (fun t => t.rng.draws) = some 32 := by decide +kernel

/-! ## Micro-operations of an outer sample -/

/-- V7: the repeat restores the duty. -/
theorem test_psRepeat : after .psRepeat { withPrm golden with
      syn := { Synth.zero true with repTime := 231#32, repLimit := 232#32, arpTime := 7#32 } }
    (fun t => (t.syn.repTime, t.syn.squareDuty, t.syn.arpTime, t.syn.period)) =
      some (0#32, 0x3F000000#32, 0#32, 1098#32) := by decide +kernel

/-- V6: the arpeggio fires. -/
theorem test_psArp : after .psArp (withSyn { Synth.zero true with
      arpTime := 5031#32, arpLimit := 5032#32, arpMod := 0x3FE8CCCCCCCCCCCD#64, fperiod := 0x40912B9AAE596760#64 })
    (fun t => (t.syn.fperiod, t.syn.arpLimit, t.syn.arpTime)) =
      some (0x408A9D2FC170F9D5#64, 0#32, 5032#32) := by decide +kernel

/-- V4: the floor ends a run whose minimum frequency is above 0. -/
theorem test_psSlide_floor : after .psSlide { withPrm { golden with minFrequency := 0x3E4CCCCD#32 } with
      syn := { Synth.zero true with fslide := 0x3FF0011B1D94EE39#64, fperiod := 0x40A30E0C66CD6206#64,
                                    fmaxperiod := 0x40A30E0C66CD6206#64 } }
    (fun t => (t.syn.fperiod, t.syn.gen, t.termFloor)) = some (0x40A30E0C66CD6206#64, false, true) := by
  decide +kernel

/-- 00_scope.md V20: `cvt32(1098.9010557145448)`. -/
theorem test_psVibrato_off : after .psVibrato (withSyn { Synth.zero true with fperiod := 0x40912B9AAE596760#64 })
    (fun t => (t.seq.rfperiod, t.syn.vibPhase)) = some (0x44895CD5#32, 0#32) := by decide +kernel

/-- V10: the LFO phase advances by the speed. -/
theorem test_psVibrato_on : after .psVibrato (withSyn { Synth.zero true with
      vibAmp := 0x3E800000#32, vibSpeed := 0x3B23D70A#32, vibPhase := 0x3B23D70A#32 })
    (fun t => t.syn.vibPhase) = some 0x3BA3D70A#32 := by decide +kernel

/-- V11: a period of 6.25 is floored to 8; an unrepresentable one becomes the shortest (42_frequency_lfo.md R214). -/
theorem test_psPeriod :
    after .psPeriod { State.reset with seq := { Seq.zero with rfperiod := 0x40C7FCCD#32 } } (fun t => t.syn.period) =
      some 8#32 ∧
    after .psPeriod { State.reset with seq := { Seq.zero with rfperiod := 0x7F800000#32 } } (fun t => t.syn.period) =
      some 8#32 := by decide +kernel

/-- V12. -/
theorem test_psDuty : after .psDuty (withSyn { Synth.zero true with squareDuty := 0x3F000000#32, squareSlide := 0xB851B717#32 })
    (fun t => t.syn.squareDuty) = some 0x3EFFF972#32 := by decide +kernel

/-- The table of 43_duty_envelope.md R231 (V13): entering sustain, then one sample of it. -/
theorem test_psEnv_sustain :
    after .psEnv { withPrm { golden with sustainPunch := 0x3F800000#32 } with
      syn := { Synth.zero true with envTime := 1000#32, envLen0 := 1000#32, envLen1 := 1000#32 } }
      (fun t => (t.syn.envStage, t.syn.envTime, t.syn.envVol)) = some (1#32, 0#32, 0x40400000#32) ∧
    after .psEnv { withPrm { golden with sustainPunch := 0x3F800000#32 } with
      syn := { Synth.zero true with envStage := 1#32, envLen1 := 1000#32 } }
      (fun t => (t.syn.envStage, t.syn.envTime, t.syn.envVol)) = some (1#32, 1#32, 0x403FDF3C#32) := by
  decide +kernel

/-- The same table: decay completes. -/
theorem test_psEnv_end : after .psEnv (withSyn { Synth.zero true with
      envStage := 2#32, envTime := 1000#32, envLen2 := 1000#32, envVol := 0x00000000#32 })
    (fun t => (t.syn.envStage, t.syn.envTime, t.syn.gen, t.termEnv)) = some (3#32, 0#32, false, true) := by
  decide +kernel

/-- V15. -/
theorem test_psPhaserTap :
    after .psPhaserTap (withSyn { Synth.zero true with fphase := 0x447F0000#32, fdphase := 0x3E800000#32 })
      (fun t => (t.syn.fphase, t.syn.iphase)) = some (0x447F1000#32, 1020#32) ∧
    after .psPhaserTap (withSyn { Synth.zero true with fphase := 0x447FC000#32, fdphase := 0x3E800000#32 })
      (fun t => (t.syn.fphase, t.syn.iphase)) = some (0x447FD000#32, 1023#32) := by decide +kernel

/-- The examples of 44_phaser_tap_hp_sweep.md R251. -/
theorem test_psHpSweep :
    after .psHpSweep (withSyn { Synth.zero true with flthp := 0x3CCCCCCD#32, flthpd := 0x3F8009D5#32 })
      (fun t => t.syn.flthp) = some 0x3CCCDC88#32 ∧
    after .psHpSweep (withSyn { Synth.zero true with flthpd := 0x3F800000#32 }) (fun t => t.syn.flthp) =
      some 0x3727C5AC#32 := by decide +kernel

theorem test_psSsclr : after .psSsclr { State.reset with seq := { Seq.zero with ssample := 0x40FFFD0C#32 } }
    (fun t => t.seq.ssample) = some 0#32 := by decide +kernel

/-- 45_oscillator.md R260: 1001 mod 8 = 1. -/
theorem test_ssPhase : after .ssPhase (withSyn { Synth.zero true with phase := 1000#32, period := 8#32 })
    (fun t => t.syn.phase) = some 1#32 := by decide +kernel

/-- 45_oscillator.md R264: phase 549 of 1098 gives 0.5, which is not below the duty 0.5. -/
theorem test_ssWave : after .ssWave (withSyn { Synth.zero true with
      phase := 549#32, period := 1098#32, squareDuty := 0x3F000000#32 })
    (fun t => (t.seq.fp, t.seq.sample)) = some (0x3F000000#32, 0xBF000000#32) := by decide +kernel

theorem test_waveSquare : after .waveSquare { withSyn { Synth.zero true with squareDuty := 0x3F000000#32 } with
      seq := { Seq.zero with fp := 0x3EFFFFFF#32 } } (fun t => t.seq.sample) = some 0x3F000000#32 := by decide +kernel

/-- 45_oscillator.md R266: phase 1 of 1098. -/
theorem test_waveSawtooth : after .waveSawtooth { State.reset with seq := { Seq.zero with fp := 0x3A6EBF2F#32 } }
    (fun t => t.seq.sample) = some 0x3F7F88A0#32 := by decide +kernel

/-- 45_oscillator.md R267 (V10): the sine of PI32, and of phase 1 with period 1098 and phase 7 with period 8. -/
theorem test_waveSine :
    after .waveSine { State.reset with seq := { Seq.zero with fp := 0x3F000000#32 } } (fun t => t.seq.sample) =
      some 0xB3BBBD2E#32 ∧
    after .ssWave (oscillating 1#32 1098#32 2#32) (fun t => t.seq.sample) = some 0x3BBB82A2#32 ∧
    after .ssWave (oscillating 7#32 8#32 2#32) (fun t => t.seq.sample) = some 0xBF3504EF#32 := by decide +kernel

/-- 45_oscillator.md R265: phase 1097 of 1098 reads slot 31. -/
theorem test_waveNoise : after .waveNoise { withSyn { Synth.zero true with phase := 1097#32, period := 1098#32 } with
      mem := [(0x207E, 0x80#8), (0x207F, 0xBF#8)] } (fun t => t.seq.sample) = some 0xBF800000#32 := by decide +kernel

/-- 00_scope.md R24 (V18). -/
theorem test_waveOther : after (.waveOther 7#32) { State.reset with seq := { Seq.zero with sample := 1#32 } }
    (fun t => t.seq.sample) = some 0#32 := by decide +kernel

/-- 46_filters.md R280, sub-sample 0 of its table. -/
theorem test_ssLpf : after .ssLpf { withPrm { golden with lpfCutoff := 0x3F000000#32 } with
      syn := { Synth.zero true with fltw := 0x3C4CCCCD#32, fltwd := 0x3F800000#32, fltdmp := 0x3C99999A#32 },
      seq := { Seq.zero with sample := 0x3F7F88A0#32 } }
    (fun t => (t.syn.fltdp, t.syn.fltp)) = some (0x3C48980D#32, 0x3C48980D#32) := by decide +kernel

/-- V17: a negative sweep factor, and the signed zero that follows. -/
theorem test_ssLpf_signed_zero : after .ssLpf { withPrm { golden with lpfCutoff := 0x3F000000#32 } with
      syn := { Synth.zero true with fltwd := 0xBF800000#32 } } (fun t => t.syn.fltw) = some 0x80000000#32 := by
  decide +kernel

/-- 46_filters.md R281, sub-sample 0 of its table. -/
theorem test_ssHpf : after .ssHpf (withSyn { Synth.zero true with fltp := 0x3F000000#32, flthp := 0x3727C5AC#32 })
    (fun t => (t.syn.fltphp, t.seq.sample)) = some (0x3EFFFF58#32, 0x3EFFFF58#32) := by decide +kernel

/-- 47_phaser_delay.md R290: tap 0 doubles the sample. -/
theorem test_ssPhaser : after .ssPhaser { State.reset with seq := { Seq.zero with sample := 0x3EFFFF58#32 } }
    (fun t => (t.seq.sample, dlRead t.mem 0#32, t.syn.ipp)) = some (0x3F7FFF58#32, 0x3EFFFF58#32, 1#32) := by
  decide +kernel

/-- 48_output.md R303: the second running sum. -/
theorem test_ssAcc : after .ssAcc { withSyn { Synth.zero true with envVol := 0x3F800000#32 } with
      seq := { Seq.zero with ssample := 0x3F7FFF58#32, sample := 0x3F7FFEB0#32 } }
    (fun t => t.seq.ssample) = some 0x3FFFFF04#32 := by decide +kernel

/-- 48_output.md R301. -/
theorem test_poOut : after .poOut { State.reset with seq := { Seq.zero with ssample := 0x40FFFD0C#32 } }
    (fun t => (t.sampleOut, t.sampleCount, t.emitted)) =
      some (0x3E4CCA70#32, 1#32, [{ index := 0#32, value := 0x3E4CCA70#32 }]) := by decide +kernel

/-- 48_output.md R301: the last sample of the capacity, and the clamp (V19). -/
theorem test_poOut_capacity : after .poOut { State.reset with
      sampleCount := 440999#32, syn := Synth.zero true, seq := { Seq.zero with ssample := 0x44FA0000#32 } }
    (fun t => (t.sampleOut, t.sampleCount, t.syn.gen, t.termCap)) = some (0x3F800000#32, 441000#32, false, true) := by
  decide +kernel

/-! ## Arithmetic (V20) -/

theorem test_v20_conversions :
    trunc64 specParams 0x40912B9AAE596760#64 = 1098#32 ∧ trunc64 specParams 0xBFE0000000000000#64 = 0#32 ∧
    trunc64 specParams 0xC1E0000000000000#64 = 0x80000000#32 ∧
    trunc64 specParams 0x41E0000000000000#64 = 0x80000000#32 ∧
    trunc64 specParams 0x41DFFFFFFFC00000#64 = 0x7FFFFFFF#32 ∧
    absI32 0xFFFFFFFB#32 = 5#32 ∧ absI32 0x80000000#32 = 0x80000000#32 ∧ i2f32 16777217#32 = 0x4B800000#32 := by
  decide +kernel

theorem test_v20_products :
    mul32 specParams 0x3E99999A#32 0x3E99999A#32 = 0x3DB851EC#32 ∧
    sq64 specParams 0x3E99999A#32 = 0x3FB70A3D8F5C2900#64 ∧
    cube64 specParams 0xBE99999A#32 = 0xBF9BA5E38B4395A6#64 ∧
    sq64 specParams 0x3DCCCCCD#32 = 0x3F847AE151EB8520#64 := by decide +kernel

theorem test_v20_quotients :
    div32 specParams 0#32 0#32 = 0xFFC00000#32 ∧ div32 specParams 0#32 0xCF000000#32 = 0x80000000#32 ∧
    lt32 (div32 specParams 0x44094000#32 0x44894000#32) 0x3F000000#32 = false ∧
    lt32 0xFFC00000#32 0#32 = false ∧ lt32 0x3F000000#32 0xFFC00000#32 = false ∧
    eq32 0x80000000#32 0#32 = true ∧ lt32 0x80000000#32 0#32 = false := by decide +kernel

/-- 00_scope.md R18: the first NaN operand is quieted, and an invalid operation gives the default NaN. -/
theorem test_nan_results :
    add32 specParams 0x7F800001#32 0xFF812345#32 = 0x7FC00001#32 ∧
    mul32 specParams 0x3F800000#32 0xFF812345#32 = 0xFFC12345#32 ∧
    sub32 specParams 0x7F800000#32 0x7F800000#32 = 0xFFC00000#32 ∧
    cvt32 specParams 0xFFF0123440000000#64 = 0xFFC091A2#32 := by decide +kernel

/-! ## The parameter record (30_encoding.md R110) -/

/-- The seed 12345 is field 0, the sustain time 0.3f field 3 and the start frequency 0.3f field 6. -/
theorem test_record :
    golden.toBytes.take 16 = [0x39#8, 0x30#8, 0#8, 0#8, 0#8, 0#8, 0#8, 0#8, 0#8, 0#8, 0#8, 0#8, 0x9A#8, 0x99#8, 0x99#8, 0x3E#8] ∧
    (golden.toBytes.drop 24).take 4 = [0x9A#8, 0x99#8, 0x99#8, 0x3E#8] ∧
    Prm.ofBytes golden.toBytes = some golden ∧ Prm.ofBytes (golden.toBytes.drop 1) = none := by decide +kernel

/-! ## Fetch and placing -/

/-- A placed word is what the next step performs. -/
theorem test_place :
    afterStep (State.reset.withFetchWord 64 0x8000006000000007) (fun t => t.cmdErr) = some true ∧
    afterStep (State.reset.withFetchWord 8 0x29) (fun t => t.seq.upc) = some 0x30#8 ∧
    afterStep (State.reset.withFetchWord 8 0x06) (fun t => t.cmdErr) = some true ∧
    afterStep (State.reset.withFetchWord 32 7) (fun t => t.seq.upc) = some 0x32#8 := by decide +kernel

/-- At rest with nothing pending, a step changes nothing (40_control.md R152). -/
theorem test_rest : step State.reset = .next State.reset := rfl

/-! ## Witnesses: for each statement with hypotheses, a state and operands that meet them -/

theorem test_witness_decodeInvertsEncode :
    (Instr.wr 0xFFFC#16 0xFFFFFFFF#32).wellFormed = true ∧ (Instr.waveOther 4#32).wellFormed = true := by decide

theorem test_witness_acceptedBytesReencode :
    Format.txn ≠ .cmdw ∧ decode .txn [0#8, 0#8, 0#8, 0#8, 0x6C#8, 0#8, 0#8, 0#8] = .ok (.rd 0x06C#16) ∧
    Format.wavesel ≠ .cmdw ∧ decode .wavesel [4#8, 0#8, 0#8, 0#8] = .ok (.waveOther 4#32) := by decide

/-- One witness for each way a command is refused. -/
theorem test_witness_refusedCommands :
    Instr.reservedF ∈ [Instr.reserved6, .reserved7, .reserved8, .reserved9, .reservedA, .reservedB, .reservedC,
      .reservedD, .reservedE, .reservedF] ∧
    running.run = .running ∧ State.reset.run ≠ .ready ∧ done.run ≠ .ready ∧ running.run ≠ .ready := by decide

theorem test_witness_commandsWithoutSamples :
    0xFFFFFFF0#32 &&& 0xF#32 = 0#32 ∧ (ready golden).run = .ready := by decide

/-- SETUP from IDLE with a seed, from DONE with none. -/
theorem test_witness_setupStartsARun :
    (withPrm golden).run ≠ .running ∧ (withPrm golden).prm.randSeed ≠ 0#32 ∧
    State.reset.run ≠ .running ∧ State.reset.prm.randSeed = 0#32 := by decide

theorem test_witness_setupPerformsItsSequence : done.run ≠ .running := by decide

/-- Reset and the end of a run, with the same record and source. -/
theorem test_witness_setupIgnoresTheEarlierRun : (withPrm golden).run ≠ .running ∧ done.run ≠ .running ∧
    (withPrm golden).prm = done.prm ∧ (withPrm golden).rng = done.rng ∧ withPrm golden ≠ done := by decide

/-- READY on a sample that goes on (test_step_golden), and on one that ends the run. -/
def lastSample : State :=
  { ready golden with
    syn := { (ready golden).syn with envStage := 2#32, envTime := 16000#32 }, termFloor := true, termCap := true,
    termEnv := true }

theorem test_witness_stepEmitsOneSample :
    lastSample.run = .ready ∧ lastSample.termEnv = true ∧ lastSample.termFloor = true ∧ lastSample.termCap = true ∧
    after .step lastSample (fun t => (t.syn.gen, t.run, t.sampleCount)) = some (false, .done, 1#32) ∧
    after .step (ready golden) (fun t => t.syn.gen) = some true := by decide +kernel

theorem test_witness_stepPerformsItsSequence : (ready golden).run = .ready := rfl

/-- The first and the last field, in each state. -/
theorem test_witness_prmWrite :
    0 < 24 ∧ 23 < 24 ∧ State.reset.run = .idle ∧ done.run = .done ∧ (ready golden).run = .ready ∧
    running.run = .running ∧
    after (.wr 0x05C#16 0xFFFFFFFF#32) State.reset (fun t => t.prm.hpfCutoffSweep) = some 0xFFFFFFFF#32 ∧
    after (.wr 0x000#16 0xFFFFFFFF#32) done (fun t => t.prm.randSeed) = some 0xFFFFFFFF#32 ∧
    after (.wr 0x000#16 0xFFFFFFFF#32) running (fun t => (t.prm.randSeed, t.wErr)) = some (12345#32, true) := by
  decide +kernel

/-- The lowest and the highest ignored offset, and the ends of each reserved range. -/
theorem test_witness_readOnlyAndReserved :
    alignedOffset 0x064#16 = true ∧ 0x064 ≤ (0x064#16).toNat ∧ alignedOffset 0xFFFC#16 = true ∧
    0x080 ≤ (0x080#16).toNat ∧ (0x0FC#16).toNat < 0x100 ∧ alignedOffset 0x080#16 = true ∧
    0x1A0 ≤ (0x1A0#16).toNat ∧ (0xFFC#16).toNat < 0x1000 ∧ alignedOffset 0x1A0#16 = true ∧
    0x2080 ≤ (0x2080#16).toNat ∧ 0x2080 ≤ (0xFFFC#16).toNat ∧ alignedOffset 0x2080#16 = true := by
  refine ⟨?_, ?_, ?_, ?_, ?_, ?_, ?_, ?_, ?_, ?_, ?_, ?_⟩ <;> decide

theorem test_witness_aligned : alignedOffset 0x0000#16 = true ∧ alignedOffset 0xFFFC#16 = true := by decide

/-- The last entry of each list of the two layouts. -/
theorem test_witness_layouts : let s := ready golden
    (0x5C#16, s.prm.hpfCutoffSweep) ∈ [(0x00#16, s.prm.randSeed), (0x04#16, s.prm.waveType), (0x08#16, s.prm.attackTime),
      (0x0C#16, s.prm.sustainTime), (0x10#16, s.prm.sustainPunch), (0x14#16, s.prm.decayTime),
      (0x18#16, s.prm.startFrequency), (0x1C#16, s.prm.minFrequency), (0x20#16, s.prm.slide),
      (0x24#16, s.prm.deltaSlide), (0x28#16, s.prm.vibratoDepth), (0x2C#16, s.prm.vibratoSpeed),
      (0x30#16, s.prm.changeAmount), (0x34#16, s.prm.changeSpeed), (0x38#16, s.prm.squareDuty),
      (0x3C#16, s.prm.dutySweep), (0x40#16, s.prm.repeatSpeed), (0x44#16, s.prm.phaserOffset),
      (0x48#16, s.prm.phaserSweep), (0x4C#16, s.prm.lpfCutoff), (0x50#16, s.prm.lpfCutoffSweep),
      (0x54#16, s.prm.lpfResonance), (0x58#16, s.prm.hpfCutoff), (0x5C#16, s.prm.hpfCutoffSweep)] ∧
    (0x19C#16, (BitVec.ofBool s.syn.gen).setWidth 32) ∈ [(0x100#16, s.syn.phase), (0x104#16, s.syn.period), (0x130#16, s.syn.squareDuty),
      (0x134#16, s.syn.squareSlide), (0x138#16, s.syn.envStage), (0x13C#16, s.syn.envTime),
      (0x140#16, s.syn.envLen0), (0x144#16, s.syn.envLen1), (0x148#16, s.syn.envLen2), (0x14C#16, s.syn.envVol),
      (0x150#16, s.syn.fphase), (0x154#16, s.syn.fdphase), (0x158#16, s.syn.iphase), (0x15C#16, s.syn.ipp),
      (0x160#16, s.syn.fltp), (0x164#16, s.syn.fltdp), (0x168#16, s.syn.fltw), (0x16C#16, s.syn.fltwd),
      (0x170#16, s.syn.fltdmp), (0x174#16, s.syn.fltphp), (0x178#16, s.syn.flthp), (0x17C#16, s.syn.flthpd),
      (0x180#16, s.syn.vibPhase), (0x184#16, s.syn.vibSpeed), (0x188#16, s.syn.vibAmp), (0x18C#16, s.syn.repTime),
      (0x190#16, s.syn.repLimit), (0x194#16, s.syn.arpTime), (0x198#16, s.syn.arpLimit),
      (0x19C#16, (BitVec.ofBool s.syn.gen).setWidth 32)] ∧
    (0x128#16, s.syn.arpMod) ∈ [(0x108#16, s.syn.fperiod), (0x110#16, s.syn.fmaxperiod), (0x118#16, s.syn.fslide),
      (0x120#16, s.syn.fdslide), (0x128#16, s.syn.arpMod)] := by
  intro s
  clear_value s
  refine ⟨?_, ?_, ?_⟩ <;> simp only [List.mem_cons, true_or, or_true]

/-- The first and the last byte of a field, and a list of 96 bytes and one of 95. -/
theorem test_witness_record : 0 < 4 ∧ 3 < 4 ∧ (List.replicate 96 0xFF#8).length = 96 ∧
    (List.replicate 95 0xFF#8).length ≠ 96 := by decide

/-- The first and last slot of each window, with a byte in the last of them. -/
theorem test_witness_memoryWindows : 0 < 1024 ∧ 1023 < 1024 ∧ 0 < 32 ∧ 31 < 32 ∧
    after (.rd 0x1FFC#16) { State.reset with mem := [(0x1FFF, 0x3F#8)] } State.hostRdata = some 0x3F000000#32 ∧
    after (.rd 0x207C#16) { State.reset with mem := [(0x207F, 0x3F#8)] } State.hostRdata = some 0x3F000000#32 := by
  decide +kernel

theorem test_witness_otherAccesses :
    (0x0061#16).extractLsb' 0 2 ≠ 0#2 ∧ (0xFFFF#16).extractLsb' 0 2 ≠ 0#2 ∧ 1 ≠ 4 ∧ 8 ≠ 4 := by decide

theorem test_witness_reseed : State.reset.prm.randSeed = 0#32 ∧ (withPrm golden).prm.randSeed ≠ 0#32 := by decide

theorem test_witness_noiseFill : State.reset.mem.wf = true ∧ 0 < 32 ∧ 31 < 32 := by decide

/-- Two counters and their limits. -/
def counters (time limit : I32) : State :=
  withSyn { Synth.zero true with repTime := time, repLimit := limit, arpTime := time, arpLimit := limit }

/-- At the limit, one below it, and with the limit off. -/
theorem test_witness_repeatAndArpeggio :
    (let s := counters 231#32 232#32
     (s.syn.repLimit ≠ 0#32 ∧ s.syn.repLimit.toInt ≤ (s.syn.repTime + 1#32).toInt) ∧
     (s.syn.arpLimit ≠ 0#32 ∧ s.syn.arpLimit.toInt ≤ (s.syn.arpTime + 1#32).toInt)) ∧
    (let s := counters 230#32 232#32
     ¬(s.syn.repLimit ≠ 0#32 ∧ s.syn.repLimit.toInt ≤ (s.syn.repTime + 1#32).toInt) ∧
     ¬(s.syn.arpLimit ≠ 0#32 ∧ s.syn.arpLimit.toInt ≤ (s.syn.arpTime + 1#32).toInt)) ∧
    (let s := counters 230#32 0#32
     ¬(s.syn.repLimit ≠ 0#32 ∧ s.syn.repLimit.toInt ≤ (s.syn.repTime + 1#32).toInt) ∧
     ¬(s.syn.arpLimit ≠ 0#32 ∧ s.syn.arpLimit.toInt ≤ (s.syn.arpTime + 1#32).toInt)) := by decide

/-- A period at the floor, and a slide factor that keeps it or lifts it. -/
def sliding (slide : F64) (minFrequency : F32) : State :=
  { withPrm { Prm.zero with minFrequency := minFrequency } with
    syn := { Synth.zero true with fslide := slide, fperiod := 0x40A30E0C66CD6206#64, fmaxperiod := 0x40A30E0C66CD6206#64 } }

/-- At the floor, and above it with a minimum frequency of 0 and above 0. -/
theorem test_witness_slideClamps :
    (let s := sliding one64 0#32
     lt64 s.syn.fmaxperiod (mul64 specParams s.syn.fperiod (add64 specParams s.syn.fslide s.syn.fdslide)) = false) ∧
    (let s := sliding 0x3FF0000000000001#64 0#32
     lt64 s.syn.fmaxperiod (mul64 specParams s.syn.fperiod (add64 specParams s.syn.fslide s.syn.fdslide)) = true ∧
     lt32 0#32 s.prm.minFrequency = false) ∧
    (let s := sliding 0x3FF0000000000001#64 1#32
     lt64 s.syn.fmaxperiod (mul64 specParams s.syn.fperiod (add64 specParams s.syn.fslide s.syn.fdslide)) = true ∧
     lt32 0#32 s.prm.minFrequency = true) := by decide +kernel

theorem test_witness_vibrato : lt32 0#32 (withSyn (Synth.zero true)).syn.vibAmp = false ∧
    lt32 0#32 (withSyn { Synth.zero true with vibAmp := 1#32 }).syn.vibAmp = true := by decide +kernel

/-- A truncated period of 8, of 7, and the one of an infinity. -/
theorem test_witness_period :
    let s := fun v : F32 => { State.reset with seq := { Seq.zero with rfperiod := v } }
    8 ≤ (trunc32 specParams (s 0x41000000#32).seq.rfperiod).toInt ∧
    (trunc32 specParams (s 0x40FFFFFF#32).seq.rfperiod).toInt < 8 ∧
    (trunc32 specParams (s 0x7F800000#32).seq.rfperiod).toInt < 8 := by decide +kernel

/-- A factor of -0.0, of 1.0, and a NaN. -/
theorem test_witness_highPassGate :
    let s := fun v : F32 => withSyn { Synth.zero true with flthpd := v }
    eq32 (s 0x80000000#32).syn.flthpd 0#32 = true ∧ eq32 (s 0x3F800000#32).syn.flthpd 0#32 = false ∧
    eq32 (s 0x7FC00000#32).syn.flthpd 0#32 = false := by decide +kernel

/-- The envelope in each stage, at its length and one above it. -/
def stage (n : I32) (time : I32) : State :=
  withSyn { Synth.zero true with envStage := n, envTime := time, envLen0 := 5#32, envLen1 := 5#32, envLen2 := 5#32 }

theorem test_witness_envelope :
    (stage 0#32 4#32).syn.envStage = 0#32 ∧ (stage 1#32 4#32).syn.envStage = 1#32 ∧
    (stage 2#32 4#32).syn.envStage = 2#32 ∧ (4#32 + 1#32).toInt ≤ (5#32).toInt ∧ (5#32).toInt < (5#32 + 1#32).toInt ∧
    [stage 0#32 4#32, stage 0#32 5#32, stage 1#32 4#32, stage 1#32 5#32, stage 2#32 4#32, stage 2#32 5#32].map
      (fun s => after .psEnv s (fun t => t.syn.envStage)) =
      [some 0#32, some 1#32, some 1#32, some 2#32, some 2#32, some 3#32] := by decide +kernel

/-- The longest admitted stage, a negative length, and one of 0. -/
theorem test_witness_envelopeSampleCount :
    let s := withSyn { Synth.zero true with envLen0 := 0x7FFFFFFE#32, envLen1 := 0x80000000#32, envLen2 := 0#32 }
    s.syn.envStage = 0#32 ∧ s.syn.envTime = 0#32 ∧ s.syn.gen = true ∧ s.syn.envLen0.toInt < 2 ^ 31 - 1 ∧
    s.syn.envLen1.toInt < 2 ^ 31 - 1 ∧ s.syn.envLen2.toInt < 2 ^ 31 - 1 := by decide

/-- An offset of -1024, of 1023.5, and an infinite one. -/
theorem test_witness_phaserTap :
    let tap := fun v : F32 => let s := withSyn { Synth.zero true with fphase := v }
      trunc32 specParams (add32 specParams s.syn.fphase s.syn.fdphase)
    tap 0xC4800000#32 = -1024#32 ∧ tap 0x447FE000#32 = 1023#32 ∧ tap 0x7F800000#32 = 0x80000000#32 := by
  decide +kernel

/-- The greatest admitted phase, with a wrap and without one, for noise and another waveform. -/
theorem test_witness_phaseWraps :
    (let s := oscillating 0x7FFFFFFD#32 0x7FFFFFFF#32 3#32
     s.mem.wf = true ∧ 0 < s.syn.period.toInt ∧ 0 ≤ s.syn.phase.toInt ∧ s.syn.phase.toInt < 2 ^ 31 - 1 ∧
     (s.syn.phase.toInt + 1 < s.syn.period.toInt ∨ s.prm.waveType ≠ 3#32)) ∧
    (let s := oscillating 7#32 8#32 1#32
     s.mem.wf = true ∧ 0 < s.syn.period.toInt ∧ 0 ≤ s.syn.phase.toInt ∧ s.syn.phase.toInt < 2 ^ 31 - 1 ∧
     (s.syn.phase.toInt + 1 < s.syn.period.toInt ∨ s.prm.waveType ≠ 3#32)) ∧
    (let s := oscillating 0x7FFFFFFD#32 8#32 3#32
     s.mem.wf = true ∧ 0 < s.syn.period.toInt ∧ 0 ≤ s.syn.phase.toInt ∧ s.syn.phase.toInt < 2 ^ 31 - 1 ∧
     s.syn.period.toInt ≤ s.syn.phase.toInt + 1 ∧ s.prm.waveType = 3#32) ∧
    (let s := oscillating 7#32 8#32 3#32
     s.mem.wf = true ∧ 0 < s.syn.period.toInt ∧ 0 ≤ s.syn.phase.toInt ∧ s.syn.phase.toInt < 2 ^ 31 - 1 ∧
     s.syn.period.toInt ≤ s.syn.phase.toInt + 1 ∧ s.prm.waveType = 3#32) := by decide

/-- Each selector; for noise, the first and the last phase of a period. -/
theorem test_witness_waveform :
    (oscillating 0#32 8#32 0#32).prm.waveType = 0#32 ∧ (oscillating 0#32 8#32 1#32).prm.waveType = 1#32 ∧
    (oscillating 0#32 8#32 2#32).prm.waveType = 2#32 ∧
    (let s := oscillating 0#32 1098#32 3#32
     s.prm.waveType = 3#32 ∧ 0 ≤ s.syn.phase.toInt ∧ s.syn.phase.toInt < s.syn.period.toInt) ∧
    (let s := oscillating 1097#32 1098#32 3#32
     s.prm.waveType = 3#32 ∧ 0 ≤ s.syn.phase.toInt ∧ s.syn.phase.toInt < s.syn.period.toInt) ∧
    4 ≤ (oscillating 0#32 8#32 4#32).prm.waveType.toNat ∧
    4 ≤ (oscillating 0#32 8#32 0xFFFFFFFF#32).prm.waveType.toNat := by
  refine ⟨?_, ?_, ?_, ?_, ?_, ?_, ?_⟩ <;> decide

theorem test_witness_filter :
    eq32 (withPrm { golden with lpfCutoff := 0x3F7FFFFF#32 }).prm.lpfCutoff 0x3F800000#32 = false ∧
    eq32 (withPrm golden).prm.lpfCutoff 0x3F800000#32 = true := by decide +kernel

/-- A tap of 0, the tap of CVT_OOR, and the delay line at its last slot. -/
theorem test_witness_phaser : State.reset.mem.wf = true ∧ State.reset.syn.iphase = 0#32 ∧
    (withSyn { Synth.zero true with iphase := 0x80000000#32, ipp := 1023#32 }).syn.iphase = 0x80000000#32 ∧
    after .ssPhaser { withSyn { Synth.zero true with iphase := 0x80000000#32, ipp := 1023#32 } with
        seq := { Seq.zero with sample := 0x3F000000#32 } }
      (fun t => (t.seq.sample, t.syn.ipp)) = some (0x3F800000#32, 0#32) := by decide +kernel

/-- A tap of 0 and of 1023, each with its sample written and with one sample too few, from a cleared delay line. -/
theorem test_witness_delayLine : State.reset.mem.wf = true ∧ 0 < 1024 ∧ 0 < [one32].length ∧
    1023 < (List.replicate 1024 one32).length ∧ 1023 < 1024 ∧ ([] : List F32).length ≤ 0 ∧
    (List.replicate 1023 one32).length ≤ 1023 ∧ ∀ i, dlRead State.reset.mem i = 0#32 := by
  refine ⟨rfl, by decide, by decide, ?_, by decide, by decide, ?_, dlRead_nil⟩
  · rw [List.length_replicate]; decide
  · rw [List.length_replicate]

theorem test_witness_output : State.reset.sampleCount ≠ 440999#32 ∧
    { State.reset with sampleCount := 440999#32 }.sampleCount = 440999#32 := by decide

theorem test_witness_frame : Instr.psDuty.format = .uop ∧ (∃ t, exec .psDuty running = .next t) ∧
    Instr.waveSine.format = .wavesel ∧ (∃ t, exec .waveSine running = .next t) ∧ Instr.psDuty ≠ .suClamp ∧
    Instr.psDuty ∉ [Instr.suClear, .suNoise, .ssPhase, .ssPhaser] ∧ Instr.psDuty ≠ .poOut ∧
    Instr.psDuty ∉ [Instr.poOut, .suClear] ∧ Instr.psDuty ∉ [Instr.suReseed, .suNoise, .ssPhase] ∧
    Instr.psDuty ∉ [Instr.psEnv, .suClear] ∧ Instr.psDuty ∉ [Instr.psSlide, .suClear] :=
  ⟨rfl, ⟨_, rfl⟩, rfl, ⟨_, rfl⟩, by decide, by decide, by decide, by decide, by decide, by decide, by decide⟩

/-- CLRERR clears, a refused command and a refused write raise. -/
theorem test_witness_errorBits :
    after .clrerr { done with cmdErr := true, wErr := true } (fun t => (t.cmdErr, t.wErr)) = some (false, false) ∧
    after (.wr 0x060#16 5#32) { done with cmdErr := true } State.cmdErr = some false ∧
    after .step done State.cmdErr = some true ∧ after (.wr 0x05C#16 0#32) running State.wErr = some true ∧
    after (.wr 0x060#16 0xF#32) done State.cmdErr = some true := by decide +kernel

/-- In a sample; between transitions with an input for the host; with the engine's turn; and at rest. -/
theorem test_witness_stepRuns :
    (0x25#8 ≠ 0x00#8 ∧ decodeUop 0x25#8 = .ok .psDuty) ∧
    (running.seq.upc = 0x00#8 ∧ decodeTxn 0x8000006000000004#64 = .ok (.wr 0x060#16 4#32) ∧
      running.hostTurn = true) ∧
    (running.run = .running ∧ running.inputs = []) ∧
    { running with hostTurn := false, inputs := [.txn 0x8000006000000004#64] }.hostTurn = false ∧
    (let s := { running with inputs := [.access 4 true 0x060#16 4#32] }
     s.seq.upc = 0x00#8 ∧ s.inputs = .access 4 true 0x060#16 4#32 :: [] ∧ s.hostTurn = true) ∧
    (let s := { State.reset with inputs := [.access 4 false 0xFFFC#16 0#32] }
     s.seq.upc = 0x00#8 ∧ s.inputs = .access 4 false 0xFFFC#16 0#32 :: [] ∧ s.run ≠ .running) ∧
    (State.reset.seq.upc = 0x00#8 ∧ State.reset.run ≠ .running ∧ State.reset.inputs = []) := by decide

theorem test_witness_engineTransition :
    running.seq.upc = 0x00#8 ∧ running.run = .running ∧ running.inputs = [] ∧
    { running with hostTurn := false, inputs := [.reset] }.hostTurn = false := by decide

/-- The invariant holds in a running run, between transitions and inside a sample, and both states step. -/
def inSample : State :=
  { running with
    syn := { running.syn with period := 8#32, phase := 7#32, iphase := 1023#32, repTime := 1#32, arpTime := 1#32 }
    seq := { running.seq with upc := 0x32#8, si := 6#3 } }

theorem test_witness_invariant :
    (Inv running ∧ ∃ t, step running = .next t) ∧ (Inv inSample ∧ ∃ t, step inSample = .next t) := by
  have h1 : ∃ t, step running = .next t := ⟨_, rfl⟩
  have h2 : ∃ t, step inSample = .next t := ⟨_, rfl⟩
  refine ⟨⟨?_, h1⟩, ⟨?_, h2⟩⟩
  · constructor
    case mem_window => exact nofun
    case emitted_unit => exact nofun
    all_goals first | decide +kernel | (unfold counted; decide +kernel)
  · constructor
    case mem_window => exact nofun
    case emitted_unit => exact nofun
    all_goals first | decide +kernel | (unfold counted; decide +kernel)

theorem test_witness_memoryCanonical : inSample.mem.wf = true ∧ (∃ t, exec .ssPhaser inSample = .next t) ∧
    ∃ t, step inSample = .next t := ⟨rfl, ⟨_, rfl⟩, ⟨_, rfl⟩⟩

/-- A running run at its first and at its last possible sample. -/
theorem test_witness_runEnds :
    running.seq.upc = 0x00#8 ∧ running.run = .running ∧ running.inputs = [] ∧ running.sampleCount.toNat < 441000 ∧
    { running with sampleCount := 440999#32 }.sampleCount.toNat < 441000 := by decide

/-- A square wave, with another noise table. -/
theorem test_witness_otherWaveforms :
    (ready golden).run = .ready ∧ (ready golden).prm.waveType ≠ 3#32 ∧ (ready golden).mem.wf = true ∧
    Memory.wf [(0x2003, 0x3F#8)] = true ∧ ∀ i, dlRead [(0x2003, 0x3F#8)] i = dlRead (ready golden).mem i := by
  refine ⟨rfl, by decide, rfl, by decide, fun i => ?_⟩
  have hi : dlAddr (dlSlot i) + 3 < 0x2003 := by have := dlSlot_lt i; unfold dlAddr; omega
  have hr : ∀ a, a < 0x2003 → Memory.readByte [(0x2003, 0x3F#8)] a = Memory.readByte [] a := by
    intro a ha; exact if_pos ha
  show Memory.readWord [(0x2003, 0x3F#8)] (dlAddr (dlSlot i)) = Memory.readWord [] (dlAddr (dlSlot i))
  unfold Memory.readWord
  rw [hr _ (by omega), hr _ (by omega), hr _ (by omega), hr _ (by omega)]

theorem test_witness_powerOnReset :
    let s := { running with inputs := [.reset] }
    s.seq.upc = 0x00#8 ∧ s.inputs = .reset :: [] ∧ s.hostTurn = true ∧ State.reset.run ≠ .running := by decide

/-- The largest and the smallest finite number of each format, and a divisor that is not 0. -/
theorem test_witness_arithmetic :
    binary32.finite (0x7F7FFFFF#32 : F32).toNat ∧ binary32.finite (0x80000001#32 : F32).toNat ∧
    binary64.finite (0x7FEFFFFFFFFFFFFF#64 : F64).toNat ∧ binary64.finite (0x8000000000000001#64 : F64).toNat ∧
    binary32.value (0x3F800000#32 : F32).toNat ≠ 0 ∧ binary64.value (0x3FF0000000000000#64 : F64).toNat ≠ 0 := by
  refine ⟨?_, ?_, ?_, ?_, ?_, ?_⟩
  · unfold Fmt.finite; decide +kernel
  · unfold Fmt.finite; decide +kernel
  · unfold Fmt.finite; decide +kernel
  · unfold Fmt.finite; decide +kernel
  · unfold Fmt.value
    have h : signed (binary32.neg (0x3F800000#32 : F32).toNat) (binary32.units (binary32.mag (0x3F800000#32 : F32).toNat)) ≠ 0 := by
      decide +kernel
    positivity
  · unfold Fmt.value
    have h : signed (binary64.neg (0x3FF0000000000000#64 : F64).toNat)
        (binary64.units (binary64.mag (0x3FF0000000000000#64 : F64).toNat)) ≠ 0 := by
      decide +kernel
    positivity

/-- The infinities and zeros of each format, and what the clauses on special operands are about: NaNs, a finite operand
that is zero and one that is not, and numbers whose sum or difference is zero. -/
theorem test_witness_specialResults :
    (binary32.inf 32 false, binary32.inf 32 true, binary32.zero 32 false, binary32.zero 32 true) =
      (0x7F800000#32, 0xFF800000#32, 0#32, 0x80000000#32) ∧
    (binary64.inf 64 false, binary64.inf 64 true, binary64.zero 64 false, binary64.zero 64 true) =
      (0x7FF0000000000000#64, 0xFFF0000000000000#64, 0#64, 0x8000000000000000#64) ∧
    isNan32 0x7F800001#32 = true ∧ isNan32 0x7F800000#32 = false ∧ isNan64 0x7FF0000000000001#64 = true ∧
    isNan64 0x7FF0000000000000#64 = false ∧
    binary32.finite (0x80000000#32 : F32).toNat ∧ binary32.finite (0x7F7FFFFF#32 : F32).toNat ∧
    binary32.value (0x80000000#32 : F32).toNat = 0 ∧
    binary32.value (0x3F800000#32 : F32).toNat + binary32.value (0xBF800000#32 : F32).toNat = 0 ∧
    binary32.value (0x80000000#32 : F32).toNat - binary32.value (0x00000000#32 : F32).toNat = 0 := by
  refine ⟨by decide +kernel, by decide +kernel, by decide +kernel, by decide +kernel, by decide +kernel,
    by decide +kernel, ?_, ?_, ?_, ?_, ?_⟩
  · unfold Fmt.finite; decide +kernel
  · unfold Fmt.finite; decide +kernel
  · have h : signed (binary32.neg (0x80000000#32 : F32).toNat) (binary32.units (binary32.mag (0x80000000#32 : F32).toNat)) = 0 := by
      decide +kernel
    unfold Fmt.value; rw [h]; norm_num
  · have h : signed (binary32.neg (0xBF800000#32 : F32).toNat) (binary32.units (binary32.mag (0xBF800000#32 : F32).toNat)) =
        -signed (binary32.neg (0x3F800000#32 : F32).toNat) (binary32.units (binary32.mag (0x3F800000#32 : F32).toNat)) := by
      decide +kernel
    unfold Fmt.value; rw [h]; push_cast; ring
  · have h : signed (binary32.neg (0x80000000#32 : F32).toNat) (binary32.units (binary32.mag (0x80000000#32 : F32).toNat)) =
        signed (binary32.neg (0x00000000#32 : F32).toNat) (binary32.units (binary32.mag (0x00000000#32 : F32).toNat)) := by
      decide +kernel
    unfold Fmt.value; rw [h]; ring

/-- The default sine is settled at 1.0f, at the number nearest π, at the largest and the smallest finite number, and at
both zeros. -/
theorem test_witness_sine :
    sineSettled 0x3F800000#32 = true ∧ sineSettled 0xC0490FDB#32 = true ∧ sineSettled 0x7F7FFFFF#32 = true ∧
    sineSettled 0x80000001#32 = true ∧ sineSettled 0#32 = true ∧ sineSettled 0x80000000#32 = true ∧
    isNan32 0xFF800001#32 = true ∧ binary32.mag (0x80000000#32 : F32).toNat = 0 := by decide +kernel

/-- NaNs, infinities, both zeros and the numbers beside them, in both formats. -/
theorem test_witness_comparisons :
    isNan32 0x7F800001#32 = true ∧ isNan32 0xFFC00000#32 = true ∧ isNan32 0x7F800000#32 = false ∧
    lt32 0x80000001#32 0#32 = true ∧ eq32 0x80000000#32 0#32 = true ∧ ge32 0x7F7FFFFF#32 0xFF7FFFFF#32 = true ∧
    lt32 0xFF800000#32 0xFF7FFFFF#32 = true ∧ eq32 0x7F800000#32 0x7F800000#32 = true ∧
    ge32 0x7F7FFFFF#32 0x7F800000#32 = false ∧
    isNan64 0x7FF0000000000001#64 = true ∧ isNan64 0xFFF0000000000000#64 = false ∧
    lt64 0xFFF0000000000000#64 0x8000000000000001#64 = true ∧ lt64 0x8000000000000000#64 0#64 = false ∧
    lt64 0x7FEFFFFFFFFFFFFF#64 0x7FF0000000000000#64 = true := by
  decide +kernel

/-- The value of a pattern that stands for a whole number. -/
theorem value_of_int {F : Fmt} {pat : Nat} {n : Int}
    (h : signed (F.neg pat) (F.units (F.mag pat)) = n * 2 ^ F.unit) : F.value pat = n := by
  unfold Fmt.value
  rw [h]
  push_cast
  field_simp

/-- Each clause at its boundary: 2^31 - 1 and 2^31, -2^31 and -2^31 - 1, 0 under both, and an infinity. -/
theorem test_witness_truncation :
    ¬binary64.finite (0x7FF0000000000000#64 : F64).toNat ∧
    binary64.value (0x41DFFFFFFFC00000#64 : F64).toNat = (2147483647 : Int) ∧
    binary64.value (0x41E0000000000000#64 : F64).toNat = (2147483648 : Int) ∧
    binary64.value (0xC1E0000000000000#64 : F64).toNat = (-2147483648 : Int) ∧
    binary64.value (0xC1E0000000200000#64 : F64).toNat = (-2147483649 : Int) ∧
    binary64.value (0x8000000000000000#64 : F64).toNat = (0 : Int) := by
  refine ⟨?_, value_of_int ?_, value_of_int ?_, value_of_int ?_, value_of_int ?_, value_of_int ?_⟩
  · unfold Fmt.finite; decide +kernel
  all_goals decide +kernel

/-- The same for f32: 2^31 - 128 and 2^31, -2^31 and -2^31 - 256, 0 under both, and a NaN. -/
theorem test_witness_truncation32 :
    ¬binary32.finite (0x7FC00000#32 : F32).toNat ∧
    binary32.value (0x4EFFFFFF#32 : F32).toNat = (2147483520 : Int) ∧
    binary32.value (0x4F000000#32 : F32).toNat = (2147483648 : Int) ∧
    binary32.value (0xCF000000#32 : F32).toNat = (-2147483648 : Int) ∧
    binary32.value (0xCF000001#32 : F32).toNat = (-2147483904 : Int) ∧
    binary32.value (0x80000000#32 : F32).toNat = (0 : Int) := by
  refine ⟨?_, value_of_int ?_, value_of_int ?_, value_of_int ?_, value_of_int ?_, value_of_int ?_⟩
  · unfold Fmt.finite; decide +kernel
  all_goals decide +kernel

end Sys2Proof.Tests
end

section
/-! PROOFS. Bit patterns of a format as signed whole numbers of units: sign and magnitude of a pattern, the units of a
magnitude as a strictly increasing function, and what each pattern stands for. -/

namespace Sys2Proof.Machine

/-! ## Formats -/

/-- A format wide enough for rounding to nearest to be as 00_scope.md R13 has it: it has a fraction bit, which tells even
from odd, and an exponent below that of infinity that is not the subnormals'. -/
structure Fmt.Proper (F : Fmt) : Prop where
  frac_pos : 0 < F.frac
  two_le_expo : 2 ≤ F.expo

theorem binary32_proper : binary32.Proper := ⟨by decide, by decide⟩

theorem binary64_proper : binary64.Proper := ⟨by decide, by decide⟩

/-- The words of a format have `w` bits. -/
def Fmt.Wide (F : Fmt) (w : Nat) : Prop := 2 * F.signBit = 2 ^ w

theorem binary32_wide : binary32.Wide 32 := by unfold Fmt.Wide Fmt.signBit; decide

theorem binary64_wide : binary64.Wide 64 := by unfold Fmt.Wide Fmt.signBit; decide

theorem Fmt.signBit_pos (F : Fmt) : 0 < F.signBit := Nat.two_pow_pos _

theorem Fmt.infMag_lt_signBit (F : Fmt) : F.infMag < F.signBit := by
  unfold Fmt.infMag Fmt.signBit
  rw [pow_add]
  exact Nat.mul_lt_mul_of_pos_right (Nat.sub_lt (Nat.two_pow_pos _) one_pos) (Nat.two_pow_pos _)

theorem Fmt.Proper.infMag_pos {F : Fmt} (hF : F.Proper) : 0 < F.infMag := by
  have h : 2 ^ 2 ≤ 2 ^ F.expo := Nat.pow_le_pow_right two_pos hF.two_le_expo
  exact Nat.mul_pos (by omega) (Nat.two_pow_pos _)

theorem Fmt.Proper.two_dvd_frac {F : Fmt} (hF : F.Proper) : 2 ∣ 2 ^ F.frac := dvd_pow_self 2 hF.frac_pos.ne'

theorem Fmt.Proper.infMag_even {F : Fmt} (hF : F.Proper) : F.infMag % 2 = 0 :=
  Nat.mod_eq_zero_of_dvd (hF.two_dvd_frac.mul_left _)

theorem Fmt.Proper.signBit_even {F : Fmt} (hF : F.Proper) : F.signBit % 2 = 0 :=
  Nat.mod_eq_zero_of_dvd (dvd_pow_self 2 (by have := hF.frac_pos; omega))

/-! ## Sign and magnitude -/

theorem Fmt.neg_iff (F : Fmt) (pat : Nat) : F.neg pat = true ↔ F.signBit ≤ pat := by
  simp [Fmt.neg]

theorem Fmt.mag_pack (F : Fmt) (s : Bool) {m : Nat} (hm : m < F.signBit) : F.mag (F.pack s m) = m := by
  cases s <;> simp [Fmt.mag, Fmt.pack, Nat.mod_eq_of_lt hm]

theorem Fmt.neg_pack (F : Fmt) (s : Bool) {m : Nat} (hm : m < F.signBit) : F.neg (F.pack s m) = s := by
  rw [Bool.eq_iff_iff, F.neg_iff]
  cases s <;> simp [Fmt.pack, hm]

theorem Fmt.pack_lt (F : Fmt) (s : Bool) {m : Nat} (hm : m < F.signBit) : F.pack s m < 2 * F.signBit := by
  cases s <;> simp only [Fmt.pack, cond_true, cond_false] <;> omega

/-- A pattern is its sign and its magnitude. -/
theorem Fmt.pack_neg_mag (F : Fmt) {pat : Nat} (h : pat < 2 * F.signBit) : F.pack (F.neg pat) (F.mag pat) = pat := by
  have hdiv : F.signBit * (pat / F.signBit) + F.mag pat = pat := Nat.div_add_mod _ _
  cases hs : F.neg pat with
  | true =>
    have hq : pat / F.signBit = 1 :=
      Nat.div_eq_of_lt_le (by simpa using (F.neg_iff pat).mp hs) (by simpa using h)
    rw [hq] at hdiv
    simpa [Fmt.pack] using hdiv
  | false =>
    have hlt : pat < F.signBit := by
      rw [← not_le, ← F.neg_iff, hs]; simp
    exact Nat.mod_eq_of_lt hlt

theorem Fmt.eq_of_neg_mag (F : Fmt) {p q : Nat} (hp : p < 2 * F.signBit) (hq : q < 2 * F.signBit)
    (hs : F.neg p = F.neg q) (hm : F.mag p = F.mag q) : p = q := by
  rw [← F.pack_neg_mag hp, ← F.pack_neg_mag hq, hs, hm]

theorem Fmt.mag_mod_two {F : Fmt} (hF : F.Proper) (pat : Nat) : F.mag pat % 2 = pat % 2 :=
  Nat.mod_mod_of_dvd _ (Nat.dvd_of_mod_eq_zero hF.signBit_even)

section
variable {F : Fmt} {w : Nat} (hw : F.Wide w)
include hw

theorem Fmt.Wide.toNat_lt (x : BitVec w) : x.toNat < 2 * F.signBit := by
  rw [hw]; exact x.isLt

theorem Fmt.Wide.toNat_pack (s : Bool) {m : Nat} (hm : m < F.signBit) :
    (BitVec.ofNat w (F.pack s m)).toNat = F.pack s m :=
  Nat.mod_eq_of_lt (hw ▸ F.pack_lt s hm)

theorem Fmt.Wide.ofNat_pack_neg_mag (x : BitVec w) : BitVec.ofNat w (F.pack (F.neg x.toNat) (F.mag x.toNat)) = x := by
  rw [F.pack_neg_mag (hw.toNat_lt x), BitVec.ofNat_toNat, BitVec.setWidth_eq]

theorem Fmt.Wide.neg_ofNat_pack (s : Bool) {m : Nat} (hm : m < F.signBit) :
    F.neg (BitVec.ofNat w (F.pack s m)).toNat = s := by
  rw [hw.toNat_pack s hm, F.neg_pack s hm]

theorem Fmt.Wide.mag_ofNat_pack (s : Bool) {m : Nat} (hm : m < F.signBit) :
    F.mag (BitVec.ofNat w (F.pack s m)).toNat = m := by
  rw [hw.toNat_pack s hm, F.mag_pack s hm]

end

/-! ## Units of a magnitude -/

/-- A magnitude pattern is an exponent `e`, of a binade of its own but for 0, and a whole number `k` of its steps. -/
theorem Fmt.exists_scaled (F : Fmt) (m : Nat) :
    ∃ e k, m = e * 2 ^ F.frac + k ∧ (e = 0 ∨ 2 ^ F.frac ≤ k) ∧ k < 2 ^ (F.frac + 1) := by
  have hdiv := Nat.div_add_mod m (2 ^ F.frac)
  have hmod := Nat.mod_lt m (Nat.two_pow_pos F.frac)
  rw [pow_succ]
  cases hq : m / 2 ^ F.frac with
  | zero => exact ⟨0, m, by simp, .inl rfl, by rw [hq] at hdiv; omega⟩
  | succ e =>
    refine ⟨e, 2 ^ F.frac + m % 2 ^ F.frac, ?_, .inr (Nat.le_add_right _ _), by omega⟩
    rw [hq] at hdiv
    linarith

/-- `k` steps at exponent `e` are `k · 2^e` units. -/
theorem Fmt.units_scaled (F : Fmt) {e k : Nat} (hlo : e = 0 ∨ 2 ^ F.frac ≤ k) (hhi : k < 2 ^ (F.frac + 1)) :
    F.units (e * 2 ^ F.frac + k) = k * 2 ^ e := by
  have hpos := Nat.two_pow_pos F.frac
  rw [pow_succ] at hhi
  rcases lt_or_ge k (2 ^ F.frac) with hk | hk
  · obtain rfl : e = 0 := hlo.resolve_right (not_le.mpr hk)
    have hdiv : k / 2 ^ F.frac = 0 := Nat.div_eq_of_lt hk
    simp only [Fmt.units, zero_mul, zero_add, pow_zero, mul_one, hdiv]
  · obtain ⟨r, rfl⟩ := Nat.exists_eq_add_of_le hk
    have hr : r < 2 ^ F.frac := by omega
    have hsplit : e * 2 ^ F.frac + (2 ^ F.frac + r) = r + 2 ^ F.frac * (e + 1) := by ring
    have hdiv : (e * 2 ^ F.frac + (2 ^ F.frac + r)) / 2 ^ F.frac = e + 1 := by
      rw [hsplit, Nat.add_mul_div_left _ _ hpos, Nat.div_eq_of_lt hr, zero_add]
    have hmod : (e * 2 ^ F.frac + (2 ^ F.frac + r)) % 2 ^ F.frac = r := by
      rw [hsplit, Nat.add_mul_mod_self_left, Nat.mod_eq_of_lt hr]
    simp only [Fmt.units, hdiv, hmod]

/-- The next magnitude is one step further, also where it begins the next binade. -/
theorem Fmt.units_scaled_succ (F : Fmt) {e k : Nat} (hlo : e = 0 ∨ 2 ^ F.frac ≤ k) (hhi : k < 2 ^ (F.frac + 1)) :
    F.units (e * 2 ^ F.frac + k + 1) = (k + 1) * 2 ^ e := by
  rcases Nat.lt_or_ge (k + 1) (2 ^ (F.frac + 1)) with hk | hk
  · exact F.units_scaled (hlo.imp_right fun h => h.trans (Nat.le_succ k)) hk
  · have hk1 : k + 1 = 2 ^ F.frac * 2 := by rw [← pow_succ]; omega
    have hnext : e * 2 ^ F.frac + k + 1 = (e + 1) * 2 ^ F.frac + 2 ^ F.frac := by linarith
    rw [hnext, F.units_scaled (.inr le_rfl) (Nat.pow_lt_pow_right one_lt_two (Nat.lt_succ_self _)), hk1]
    ring

theorem Fmt.units_strictMono (F : Fmt) : StrictMono F.units :=
  strictMono_nat_of_lt_succ fun m => by
    obtain ⟨e, k, rfl, hlo, hhi⟩ := F.exists_scaled m
    rw [F.units_scaled hlo hhi, F.units_scaled_succ hlo hhi]
    exact Nat.mul_lt_mul_of_pos_right (Nat.lt_succ_self k) (Nat.two_pow_pos e)

@[simp] theorem Fmt.units_zero (F : Fmt) : F.units 0 = 0 := by
  simpa using F.units_scaled (e := 0) (k := 0) (.inl rfl) (Nat.two_pow_pos _)

theorem Fmt.units_eq_zero (F : Fmt) {m : Nat} : F.units m = 0 ↔ m = 0 := by
  rw [← F.units_zero, F.units_strictMono.injective.eq_iff, F.units_zero]

/-- A number of at most `frac + 1` significant bits is that of a magnitude pattern. -/
theorem Fmt.exists_units (F : Fmt) {k : Nat} (e : Nat) (hk : k < 2 ^ (F.frac + 1)) : ∃ m, F.units m = k * 2 ^ e := by
  induction e generalizing k with
  | zero => exact ⟨_, F.units_scaled (.inl rfl) hk⟩
  | succ e ih =>
    rcases lt_or_ge k (2 ^ F.frac) with hlt | hge
    · obtain ⟨m, hm⟩ := ih (k := 2 * k) (by rw [pow_succ]; omega)
      exact ⟨m, by rw [hm]; ring⟩
    · exact ⟨_, F.units_scaled (.inr hge) hk⟩

/-- The significant bits of a magnitude. -/
theorem Fmt.units_significand (F : Fmt) (m : Nat) : ∃ k e, F.units m = k * 2 ^ e ∧ k < 2 ^ (F.frac + 1) := by
  obtain ⟨e, k, rfl, hlo, hhi⟩ := F.exists_scaled m
  exact ⟨k, e, F.units_scaled hlo hhi, hhi⟩

/-! ## What a pattern stands for -/

/-- The sign of a number, as a factor. -/
def sgn (s : Bool) : ℚ := cond s (-1) 1

@[simp] theorem sgn_true : sgn true = -1 := rfl
@[simp] theorem sgn_false : sgn false = 1 := rfl

theorem sgn_xor (s t : Bool) : sgn (s ^^ t) = sgn s * sgn t := by cases s <;> cases t <;> simp

theorem sgn_ne_zero (s : Bool) : sgn s ≠ 0 := by cases s <;> simp

theorem sgn_div (s t : Bool) : sgn s / sgn t = sgn s * sgn t := by cases t <;> simp [div_neg]

theorem abs_sgn (s : Bool) : |sgn s| = 1 := by cases s <;> simp

theorem signed_cast (s : Bool) (u : Nat) : ((signed s u : Int) : ℚ) = sgn s * u := by
  cases s <;> simp [signed]

theorem Fmt.value_eq (F : Fmt) (pat : Nat) :
    F.value pat = sgn (F.neg pat) * F.units (F.mag pat) / 2 ^ F.unit := by
  rw [Fmt.value, signed_cast]

theorem Fmt.value_eq_zero (F : Fmt) {pat : Nat} : F.value pat = 0 ↔ F.mag pat = 0 := by
  simp [F.value_eq, sgn_ne_zero, F.units_eq_zero]

/-- A value has one magnitude pattern; only 0 has two patterns, by the sign. -/
theorem Fmt.mag_eq_of_value_eq (F : Fmt) {p q : Nat} (h : F.value p = F.value q) : F.mag p = F.mag q := by
  have habs := congrArg abs h
  simp only [F.value_eq, abs_div, abs_mul, abs_sgn, one_mul, Nat.abs_cast] at habs
  have hu : (F.units (F.mag p) : ℚ) = F.units (F.mag q) := (div_left_inj' (by positivity)).mp habs
  exact F.units_strictMono.injective (by exact_mod_cast hu)

theorem Fmt.isNan_iff (F : Fmt) (pat : Nat) : F.isNan pat = true ↔ F.infMag < F.mag pat := by
  simp [Fmt.isNan, Nat.blt_eq]

theorem Fmt.isNan_false_iff (F : Fmt) (pat : Nat) : F.isNan pat = false ↔ F.mag pat ≤ F.infMag := by
  rw [← not_lt, ← F.isNan_iff, Bool.not_eq_true]

theorem Fmt.finite.isNan {F : Fmt} {pat : Nat} (h : F.finite pat) : F.isNan pat = false :=
  (F.isNan_false_iff pat).mpr (le_of_lt h)

theorem Fmt.num_of_isNan (F : Fmt) {pat : Nat} (h : F.isNan pat = true) : F.num pat = .nan :=
  if_pos ((F.isNan_iff pat).mp h)

theorem Fmt.num_of_mag_eq_infMag (F : Fmt) {pat : Nat} (h : F.mag pat = F.infMag) : F.num pat = .inf (F.neg pat) := by
  simp [Fmt.num, h]

theorem Fmt.num_of_finite (F : Fmt) {pat : Nat} (h : F.finite pat) :
    F.num pat = .fin (F.neg pat) (F.units (F.mag pat)) := by
  have hlt : F.mag pat < F.infMag := h
  simp [Fmt.num, hlt.not_gt, hlt.ne]

section
variable {F : Fmt} {w : Nat} (hw : F.Wide w)
include hw

theorem Fmt.Wide.num_inf (s : Bool) : F.num (F.inf w s).toNat = .inf s := by
  rw [Fmt.inf, F.num_of_mag_eq_infMag (hw.mag_ofNat_pack s F.infMag_lt_signBit),
    hw.neg_ofNat_pack s F.infMag_lt_signBit]

theorem Fmt.Wide.num_zero (hF : F.Proper) (s : Bool) : F.num (F.zero w s).toNat = .fin s 0 := by
  have hmag := hw.mag_ofNat_pack s F.signBit_pos
  have hfin : F.finite (F.zero w s).toNat := by
    rw [Fmt.finite, Fmt.zero, hmag]; exact hF.infMag_pos
  rw [F.num_of_finite hfin, Fmt.zero, hmag, hw.neg_ofNat_pack s F.signBit_pos, F.units_zero]

end

end Sys2Proof.Machine
end

section
/-! PROOFS. `Fmt.roundMag` rounds to nearest, ties to even: among all magnitudes first, with no end to the exponents, then
with overflow to infinity, and then with a sign (00_scope.md R13). -/

namespace Sys2Proof.Machine

/-! ## Magnitudes without end -/

/-- `m` is a magnitude nearest to `x` units, the even one of two, where the exponents have no end. -/
def Fmt.NearestUnits (F : Fmt) (x : ℚ) (m : Nat) : Prop :=
  ∀ other, |(F.units m : ℚ) - x| ≤ |(F.units other : ℚ) - x| ∧
    (|(F.units m : ℚ) - x| = |(F.units other : ℚ) - x| → other ≠ m → m % 2 = 0)

section
variable {F : Fmt} {x : ℚ} {m : Nat} (hlo : (F.units m : ℚ) ≤ x) (hhi : x ≤ F.units (m + 1))
include hlo hhi

/-- Any other magnitude than the two around `x` is further away than the nearer of them. -/
theorem Fmt.units_outside {other : Nat} :
    (other ≤ m ∧ |(F.units other : ℚ) - x| = x - F.units other ∧ (other ≠ m → (F.units other : ℚ) < F.units m)) ∨
    (m + 1 ≤ other ∧ |(F.units other : ℚ) - x| = F.units other - x ∧
      (other ≠ m + 1 → (F.units (m + 1) : ℚ) < F.units other)) := by
  rcases Nat.lt_or_ge m other with h | h
  · have hle : (F.units (m + 1) : ℚ) ≤ F.units other := by exact_mod_cast F.units_strictMono.monotone h
    refine .inr ⟨h, abs_of_nonneg (by linarith), fun hne => ?_⟩
    exact_mod_cast F.units_strictMono (lt_of_le_of_ne h (Ne.symm hne))
  · have hle : (F.units other : ℚ) ≤ F.units m := by exact_mod_cast F.units_strictMono.monotone h
    refine .inl ⟨h, by rw [abs_sub_comm]; exact abs_of_nonneg (by linarith), fun hne => ?_⟩
    exact_mod_cast F.units_strictMono (lt_of_le_of_ne h hne)

theorem Fmt.nearestUnits_below
    (h : x - F.units m < F.units (m + 1) - x ∨ x - F.units m = F.units (m + 1) - x ∧ m % 2 = 0) :
    F.NearestUnits x m := by
  intro other
  have hself : |(F.units m : ℚ) - x| = x - F.units m := by rw [abs_sub_comm]; exact abs_of_nonneg (by linarith)
  rcases Fmt.units_outside hlo hhi (other := other) with ⟨-, hdist, hfar⟩ | ⟨hle, hdist, -⟩
  · rw [hself, hdist]
    rcases eq_or_ne other m with rfl | hne
    · exact ⟨le_rfl, fun _ hne => absurd rfl hne⟩
    · have := hfar hne
      exact ⟨by linarith, fun heq => by linarith⟩
  · have hmono : (F.units (m + 1) : ℚ) ≤ F.units other := by exact_mod_cast F.units_strictMono.monotone hle
    rw [hself, hdist]
    rcases h with hlt | ⟨heq, heven⟩
    · exact ⟨by linarith, fun heq => by linarith⟩
    · exact ⟨by linarith, fun _ _ => heven⟩

theorem Fmt.nearestUnits_above
    (h : F.units (m + 1) - x < x - F.units m ∨ F.units (m + 1) - x = x - F.units m ∧ (m + 1) % 2 = 0) :
    F.NearestUnits x (m + 1) := by
  intro other
  have hself : |(F.units (m + 1) : ℚ) - x| = F.units (m + 1) - x := abs_of_nonneg (by linarith)
  rcases Fmt.units_outside hlo hhi (other := other) with ⟨hle, hdist, -⟩ | ⟨-, hdist, hfar⟩
  · have hmono : (F.units other : ℚ) ≤ F.units m := by exact_mod_cast F.units_strictMono.monotone hle
    rw [hself, hdist]
    rcases h with hlt | ⟨heq, heven⟩
    · exact ⟨by linarith, fun heq => by linarith⟩
    · exact ⟨by linarith, fun _ _ => heven⟩
  · rw [hself, hdist]
    rcases eq_or_ne other (m + 1) with rfl | hne
    · exact ⟨le_rfl, fun _ hne => absurd rfl hne⟩
    · have := hfar hne
      exact ⟨by linarith, fun heq => by linarith⟩

end

/-- The whole part shifted by the bits that do not fit has `frac + 1` bits, and its first is set if any were shifted. -/
theorem shifted_bounds (frac q : Nat) :
    (Nat.log2 q - frac = 0 ∨ 2 ^ frac ≤ q / 2 ^ (Nat.log2 q - frac)) ∧ q / 2 ^ (Nat.log2 q - frac) < 2 ^ (frac + 1) := by
  have hlt : q < 2 ^ (Nat.log2 q + 1) := Nat.lt_log2_self
  constructor
  · rcases Nat.eq_zero_or_pos (Nat.log2 q - frac) with h0 | hpos
    · exact .inl h0
    · have hq : q ≠ 0 := by rintro rfl; simp at hpos
      refine .inr ((Nat.le_div_iff_mul_le (Nat.two_pow_pos _)).mpr ?_)
      rw [← pow_add, Nat.add_sub_cancel' (by omega)]
      exact Nat.log2_self_le hq
  · rw [Nat.div_lt_iff_lt_mul (Nat.two_pow_pos _), ← pow_add]
    exact hlt.trans_le (Nat.pow_le_pow_right two_pos (by omega))

/-- What `roundMag` computes: the nearest magnitude, cut off at infinity. -/
theorem Fmt.Proper.roundMag_eq {F : Fmt} (hF : F.Proper) (n : Nat) {d : Nat} (hd : 0 < d) :
    ∃ m, F.roundMag n d = min F.infMag m ∧ F.NearestUnits ((n : ℚ) / d) m := by
  obtain ⟨hlo, hhi⟩ := shifted_bounds F.frac (n / d)
  set shift := Nat.log2 (n / d) - F.frac with hshift
  set step := d * 2 ^ shift with hstep
  set k := n / step with hk
  set r := n % step with hr
  rw [Nat.div_div_eq_div_mul, ← hstep, ← hk] at hlo hhi
  set m := shift * 2 ^ F.frac + k with hm
  have hround : F.roundMag n d =
      min F.infMag (m + if step < 2 * r ∨ (2 * r = step ∧ k % 2 = 1) then 1 else 0) := by
    rw [hm, add_assoc]; rfl
  -- the distances to the two magnitudes around, times `d`
  have hdq : (0 : ℚ) < d := by exact_mod_cast hd
  have hn : (n : ℚ) / d = k * 2 ^ shift + r / d := by
    have hdm : step * k + r = n := Nat.div_add_mod n step
    rw [← hdm, hstep]; push_cast; field_simp
  have hstepq : (2 : ℚ) ^ shift = step / d := by rw [hstep]; push_cast; field_simp
  have hbelow : (F.units m : ℚ) = k * 2 ^ shift := by rw [hm, F.units_scaled hlo hhi]; push_cast; rfl
  have habove : (F.units (m + 1) : ℚ) = (k + 1) * 2 ^ shift := by
    rw [hm, F.units_scaled_succ hlo hhi]; push_cast; rfl
  have hdown : (n : ℚ) / d - F.units m = r / d := by rw [hn, hbelow]; ring
  have hup : (F.units (m + 1) : ℚ) - n / d = (step - r) / d := by rw [hn, habove, sub_div, ← hstepq]; ring
  have hrlt : (r : ℚ) < step := by
    exact_mod_cast Nat.mod_lt n (Nat.mul_pos hd (Nat.two_pow_pos shift))
  have hle1 : (F.units m : ℚ) ≤ n / d := sub_nonneg.mp (hdown ▸ by positivity)
  have hle2 : (n : ℚ) / d ≤ F.units (m + 1) :=
    sub_nonneg.mp (hup ▸ div_nonneg (by linarith) hdq.le)
  have hparity : m % 2 = k % 2 := by
    rw [hm, Nat.add_mod, Nat.mod_eq_zero_of_dvd (hF.two_dvd_frac.mul_left shift)]; simp
  refine ⟨_, hround, ?_⟩
  split_ifs with h
  · refine Fmt.nearestUnits_above hle1 hle2 ?_
    rw [hdown, hup, div_lt_div_iff_of_pos_right hdq, div_left_inj' hdq.ne']
    rcases h with hlt | ⟨heq, hodd⟩
    · have : (step : ℚ) < 2 * r := by exact_mod_cast hlt
      exact .inl (by linarith)
    · have : (2 : ℚ) * r = step := by exact_mod_cast heq
      exact .inr ⟨by linarith, by omega⟩
  · refine Fmt.nearestUnits_below (m := m) hle1 hle2 ?_
    rw [hdown, hup, div_lt_div_iff_of_pos_right hdq, div_left_inj' hdq.ne']
    rcases Nat.lt_or_ge (2 * r) step with hlt | hge
    · have : (2 : ℚ) * r < step := by exact_mod_cast hlt
      exact .inl (by linarith)
    · have heq : 2 * r = step := by omega
      have : (2 : ℚ) * r = step := by exact_mod_cast heq
      exact .inr ⟨by linarith, by omega⟩

/-! ## Overflow -/

/-- The bound of overflow lies halfway between the largest finite number and what would follow it. -/
theorem Fmt.Proper.overflowBound_eq {F : Fmt} (hF : F.Proper) :
    2 * (F.overflowBound * 2 ^ F.unit) = F.units (F.infMag - 1) + F.units F.infMag := by
  obtain ⟨b, hb⟩ : ∃ b, 2 ^ F.expo = b + 4 :=
    Nat.exists_eq_add_of_le' (Nat.pow_le_pow_right two_pos hF.two_le_expo)
  have hp := Nat.two_pow_pos F.frac
  have hlast : F.infMag - 1 = (b + 1) * 2 ^ F.frac + (2 * 2 ^ F.frac - 1) := by
    have hinf : F.infMag = (b + 1) * 2 ^ F.frac + 2 * 2 ^ F.frac := by
      rw [Fmt.infMag, hb]; show (b + 3) * _ = _; ring
    omega
  have hinf : F.infMag = (b + 1) * 2 ^ F.frac + (2 * 2 ^ F.frac - 1) + 1 := by
    have := hF.infMag_pos
    omega
  have hlo : b + 1 = 0 ∨ 2 ^ F.frac ≤ 2 * 2 ^ F.frac - 1 := .inr (by omega)
  have hhi : 2 * 2 ^ F.frac - 1 < 2 ^ (F.frac + 1) := by rw [pow_succ]; omega
  rw [hlast, F.units_scaled hlo hhi, hinf, F.units_scaled_succ hlo hhi, Nat.sub_add_cancel (by omega),
    Fmt.overflowBound, hb, div_mul_cancel₀ _ (by positivity), Nat.add_sub_cancel]
  push_cast [Nat.cast_sub (show 1 ≤ 2 * 2 ^ F.frac by omega)]
  ring

theorem Fmt.Proper.units_pred_infMag_lt {F : Fmt} (hF : F.Proper) :
    (F.units (F.infMag - 1) : ℚ) < F.units F.infMag := by
  exact_mod_cast F.units_strictMono (Nat.sub_lt hF.infMag_pos one_pos)

theorem Fmt.NearestUnits.lt_infMag_iff {F : Fmt} (hF : F.Proper) {x : ℚ} {m : Nat} (h : F.NearestUnits x m) :
    m < F.infMag ↔ x < F.overflowBound * 2 ^ F.unit := by
  have hbound := hF.overflowBound_eq
  have hgap := hF.units_pred_infMag_lt
  constructor
  · intro hlt
    by_contra hge
    rw [not_lt] at hge
    -- the largest finite number is no nearer than infinity's pattern, and odd
    have hm : (F.units m : ℚ) ≤ F.units (F.infMag - 1) := by
      exact_mod_cast F.units_strictMono.monotone (Nat.le_sub_one_of_lt hlt)
    have hself : |(F.units m : ℚ) - x| = x - F.units m := by rw [abs_sub_comm]; exact abs_of_nonneg (by linarith)
    obtain ⟨hmin, htie⟩ := h F.infMag
    rw [hself] at hmin htie
    have hinf : |(F.units F.infMag : ℚ) - x| ≤ x - F.units (F.infMag - 1) := abs_le.mpr ⟨by linarith, by linarith⟩
    have heq : (F.units m : ℚ) = F.units (F.infMag - 1) := by linarith
    have hlast : m = F.infMag - 1 := F.units_strictMono.injective (by exact_mod_cast heq)
    have heven := htie (by linarith) hlt.ne'
    have := hF.infMag_even
    omega
  · intro hlt
    by_contra hge
    rw [not_lt] at hge
    have hm : (F.units F.infMag : ℚ) ≤ F.units m := by exact_mod_cast F.units_strictMono.monotone hge
    have hself : |(F.units m : ℚ) - x| = F.units m - x := abs_of_nonneg (by linarith)
    obtain ⟨hmin, -⟩ := h (F.infMag - 1)
    rw [hself] at hmin
    have hlast : |(F.units (F.infMag - 1) : ℚ) - x| < F.units F.infMag - x :=
      abs_lt.mpr ⟨by linarith, by linarith⟩
    linarith

theorem Fmt.Proper.overflowBound_pos {F : Fmt} (hF : F.Proper) : 0 < F.overflowBound := by
  have hbound := hF.overflowBound_eq
  have hgap := hF.units_pred_infMag_lt
  have hlast : (0 : ℚ) ≤ F.units (F.infMag - 1) := Nat.cast_nonneg _
  have hu : (0 : ℚ) < 2 ^ F.unit := by positivity
  by_contra hle
  nlinarith

/-! ## Signs -/

/-- A number is no further from another of its sign than their magnitudes are, and further from one of the other sign. -/
theorem abs_sgn_mul_sub (s t : Bool) {u x : ℚ} (hu : 0 ≤ u) (hx : 0 ≤ x) :
    |sgn t * u - sgn s * x| = if s = t then |u - x| else u + x := by
  cases s <;> cases t
  · simp
  · simp only [sgn_true, sgn_false, Bool.false_eq_true, if_false]
    rw [abs_of_nonpos (by linarith)]; ring
  · simp only [sgn_true, sgn_false, Bool.true_eq_false, if_false]
    rw [abs_of_nonneg (by linarith)]; ring
  · simp only [sgn_true, if_true]
    rw [abs_sub_comm]; congr 1; ring

theorem Fmt.abs_value_sub (F : Fmt) (pat : Nat) (s : Bool) {x : ℚ} (hx : 0 ≤ x) :
    |F.value pat - sgn s * x / 2 ^ F.unit| =
      (if s = F.neg pat then |(F.units (F.mag pat) : ℚ) - x| else F.units (F.mag pat) + x) / 2 ^ F.unit := by
  rw [F.value_eq, ← sub_div, abs_div, abs_sgn_mul_sub _ _ (Nat.cast_nonneg _) hx,
    abs_of_pos (by positivity : (0 : ℚ) < 2 ^ F.unit)]

/-- A nearest magnitude that is finite, with a sign, is a nearest number. -/
theorem Fmt.NearestUnits.nearest_pack {F : Fmt} (hF : F.Proper) {x : ℚ} {m : Nat} (h : F.NearestUnits x m)
    (hx : 0 ≤ x) (hm : m < F.infMag) (s : Bool) : F.nearest (sgn s * x / 2 ^ F.unit) (F.pack s m) := by
  have hms := hm.trans F.infMag_lt_signBit
  have hmag := F.mag_pack s hms
  have heven : m % 2 = 0 → F.pack s m % 2 = 0 := fun he => by rw [← Fmt.mag_mod_two hF, hmag, he]
  have hpos : (0 : ℚ) < 2 ^ F.unit := by positivity
  refine ⟨by rw [Fmt.finite, hmag]; exact hm, fun other _ _ => ?_⟩
  rw [F.abs_value_sub _ s hx, F.abs_value_sub _ s hx, hmag, F.neg_pack s hms, if_pos rfl,
    div_le_div_iff_of_pos_right hpos, div_left_inj' hpos.ne']
  split_ifs with hs
  · obtain ⟨hmin, htie⟩ := h (F.mag other)
    refine ⟨hmin, fun heq hne => heven (htie heq fun hother => hne ?_)⟩
    rw [F.value_eq, F.value_eq, hother, hmag, F.neg_pack s hms, ← hs]
  · -- a number of the other sign is no nearer than 0
    obtain ⟨hmin, htie⟩ := h 0
    have hother : (0 : ℚ) ≤ F.units (F.mag other) := Nat.cast_nonneg _
    have hzero : |(F.units 0 : ℚ) - x| = x := by simp [abs_of_nonneg hx]
    rw [hzero] at hmin htie
    refine ⟨by linarith, fun heq hne => heven (htie (by linarith) fun h0 => hne ?_)⟩
    have hz : F.units (F.mag other) = 0 := by
      have : (F.units (F.mag other) : ℚ) = 0 := by linarith
      exact_mod_cast this
    rw [F.value_eq_zero.mpr (F.units_eq_zero.mp hz), F.value_eq_zero.mpr (by rw [hmag, h0])]

/-! ## The whole of rounding -/

theorem Fmt.roundMag_lt_signBit (F : Fmt) (n d : Nat) : F.roundMag n d < F.signBit :=
  (Nat.min_le_left _ _).trans_lt F.infMag_lt_signBit

/-- `n / d` units with a sign, rounded. -/
theorem Fmt.Proper.rounds_roundMag {F : Fmt} (hF : F.Proper) (s : Bool) (n : Nat) {d : Nat} (hd : 0 < d) :
    F.rounds (sgn s * (n / d) / 2 ^ F.unit) (F.pack s (F.roundMag n d)) := by
  obtain ⟨m, hround, hnear⟩ := hF.roundMag_eq n hd
  have hx : (0 : ℚ) ≤ (n : ℚ) / d := by positivity
  have hpos : (0 : ℚ) < 2 ^ F.unit := by positivity
  have habs : |sgn s * (n / d : ℚ) / 2 ^ F.unit| = n / d / 2 ^ F.unit := by
    rw [abs_div, abs_mul, abs_sgn, one_mul, abs_of_nonneg hx, abs_of_pos hpos]
  rw [Fmt.rounds, habs, div_lt_iff₀ hpos, ← hnear.lt_infMag_iff hF, le_div_iff₀ hpos, ← not_lt,
    ← hnear.lt_infMag_iff hF, hround]
  constructor
  · intro hm
    rw [min_eq_right hm.le]
    exact hnear.nearest_pack hF hx hm s
  · intro hm
    rw [min_eq_left (not_lt.mp hm), F.mag_pack s F.infMag_lt_signBit, F.neg_pack s F.infMag_lt_signBit]
    refine ⟨rfl, ?_⟩
    have hxpos : (0 : ℚ) < n / d := by
      rw [hnear.lt_infMag_iff hF, not_lt] at hm
      exact (mul_pos hF.overflowBound_pos hpos).trans_le hm
    cases s
    · rw [eq_comm, decide_eq_false_iff_not, not_lt]
      simpa using by positivity
    · rw [eq_comm, decide_eq_true_iff, sgn_true, neg_one_mul, neg_div, neg_lt_zero]
      positivity

theorem Fmt.finite.abs_value_lt {F : Fmt} (hF : F.Proper) {pat : Nat} (h : F.finite pat) :
    |F.value pat| < F.overflowBound := by
  have hbound := hF.overflowBound_eq
  have hgap := hF.units_pred_infMag_lt
  have hle : (F.units (F.mag pat) : ℚ) ≤ F.units (F.infMag - 1) := by
    exact_mod_cast F.units_strictMono.monotone (Nat.le_sub_one_of_lt h)
  have hpos : (0 : ℚ) < 2 ^ F.unit := by positivity
  rw [F.value_eq, abs_div, abs_mul, abs_sgn, one_mul, Nat.abs_cast, abs_of_pos hpos, div_lt_iff₀ hpos]
  linarith

/-- A number of the format is rounded to itself. -/
theorem Fmt.rounds.exact {F : Fmt} (hF : F.Proper) {q : ℚ} {pat other : Nat} (h : F.rounds q pat)
    (hlt : other < 2 * F.signBit) (hfin : F.finite other) (hval : F.value other = q) :
    F.finite pat ∧ F.value pat = q := by
  obtain ⟨hpat, hmin⟩ := h.1 (hval ▸ hfin.abs_value_lt hF)
  have hdist := (hmin other hlt hfin).1
  rw [hval, sub_self, abs_zero] at hdist
  exact ⟨hpat, sub_eq_zero.mp (abs_nonpos_iff.mp hdist)⟩

end Sys2Proof.Machine
end

section
/-! PROOFS. The four operations of either format as one lift of an operation on numbers to words: on finite operands they
round the exact result (00_scope.md R13), and on the others they give the IEEE results (R18; 60_exceptions.md R322). -/

namespace Sys2Proof.Machine

/-! ## Lifting an operation to words -/

/-- A word for the result of an operation on what two words stand for; `nan` is the pattern where it is a NaN. -/
def Fmt.lift (F : Fmt) {w : Nat} (op : Num → Num → Option Nat) (nan : BitVec w → BitVec w → BitVec w)
    (a b : BitVec w) : BitVec w :=
  match op (F.num a.toNat) (F.num b.toNat) with
  | some m => BitVec.ofNat w m
  | none => nan a b

/-- Subtraction adds the negated number. -/
def Fmt.sub (F : Fmt) (m n : Num) : Option Nat := F.add m n.negate

theorem result32_eq_lift (P : Params) (op : Num → Num → Option Nat) (a b : F32) :
    result32 P a b (op (num32 a) (num32 b)) = binary32.lift op P.nan.bin32 a b := by
  unfold result32 Fmt.lift num32
  cases op _ _ <;> rfl

theorem result64_eq_lift (P : Params) (op : Num → Num → Option Nat) (a b : F64) :
    result64 P a b (op (num64 a) (num64 b)) = binary64.lift op P.nan.bin64 a b := by
  unfold result64 Fmt.lift num64
  cases op _ _ <;> rfl

section
variable (P : Params)

theorem add32_eq_lift : add32 P = binary32.lift binary32.add P.nan.bin32 :=
  funext₂ fun a b => result32_eq_lift P binary32.add a b

theorem sub32_eq_lift : sub32 P = binary32.lift binary32.sub P.nan.bin32 :=
  funext₂ fun a b => result32_eq_lift P binary32.sub a b

theorem mul32_eq_lift : mul32 P = binary32.lift binary32.mul P.nan.bin32 :=
  funext₂ fun a b => result32_eq_lift P binary32.mul a b

theorem div32_eq_lift : div32 P = binary32.lift binary32.div P.nan.bin32 :=
  funext₂ fun a b => result32_eq_lift P binary32.div a b

theorem add64_eq_lift : add64 P = binary64.lift binary64.add P.nan.bin64 :=
  funext₂ fun a b => result64_eq_lift P binary64.add a b

theorem sub64_eq_lift : sub64 P = binary64.lift binary64.sub P.nan.bin64 :=
  funext₂ fun a b => result64_eq_lift P binary64.sub a b

theorem mul64_eq_lift : mul64 P = binary64.lift binary64.mul P.nan.bin64 :=
  funext₂ fun a b => result64_eq_lift P binary64.mul a b

theorem div64_eq_lift : div64 P = binary64.lift binary64.div P.nan.bin64 :=
  funext₂ fun a b => result64_eq_lift P binary64.div a b

end

section
variable {F : Fmt} {w : Nat} {op : Num → Num → Option Nat} {nan : BitVec w → BitVec w → BitVec w} {a b : BitVec w}

theorem Fmt.lift_of_some {m : Nat} (h : op (F.num a.toNat) (F.num b.toNat) = some m) :
    F.lift op nan a b = BitVec.ofNat w m := by simp [Fmt.lift, h]

theorem Fmt.lift_of_none (h : op (F.num a.toNat) (F.num b.toNat) = none) : F.lift op nan a b = nan a b := by
  simp [Fmt.lift, h]

end

/-! ## Signed sums -/

@[simp] theorem Fmt.roundMag_zero (F : Fmt) {d : Nat} (hd : 0 < d) : F.roundMag 0 d = 0 := by
  simp [Fmt.roundMag, hd.ne]

/-- A signed sum rounds its magnitude; its sign is the sum's, and the one that is asked for where the sum is 0. -/
theorem Fmt.roundSum_eq (F : Fmt) (zeroNeg : Bool) (z : Int) :
    F.roundSum zeroNeg z = F.pack (if z = 0 then zeroNeg else decide (z < 0)) (F.roundMag z.natAbs 1) := by
  unfold Fmt.roundSum
  split_ifs with hz
  · rw [hz, Int.natAbs_zero, F.roundMag_zero one_pos]
  · rfl

theorem sgn_mul_natAbs (z : Int) : sgn (decide (z < 0)) * z.natAbs = (z : ℚ) := by
  rcases lt_or_ge z 0 with hz | hz
  · rw [decide_eq_true hz, sgn_true, Nat.cast_natAbs, abs_of_neg hz]; push_cast; ring
  · rw [decide_eq_false hz.not_gt, sgn_false, Nat.cast_natAbs, abs_of_nonneg hz, one_mul]

theorem Fmt.Proper.rounds_roundSum {F : Fmt} (hF : F.Proper) (zeroNeg : Bool) (z : Int) :
    F.rounds (z / 2 ^ F.unit) (F.roundSum zeroNeg z) := by
  have h := hF.rounds_roundMag (if z = 0 then zeroNeg else decide (z < 0)) z.natAbs one_pos
  rw [F.roundSum_eq]
  convert h using 2
  split_ifs with hz
  · simp [hz]
  · rw [Nat.cast_one, div_one, sgn_mul_natAbs]

theorem signed_not (s : Bool) (u : Nat) : signed (!s) u = -signed s u := by cases s <;> simp [signed]

/-! ## Finite operands -/

section
variable {F : Fmt} {w : Nat} {a b : BitVec w} {nan : BitVec w → BitVec w → BitVec w}
variable (ha : F.finite a.toNat) (hb : F.finite b.toNat)
include ha hb

theorem Fmt.lift_add_finite : F.lift F.add nan a b = BitVec.ofNat w (F.roundSum (F.neg a.toNat && F.neg b.toNat)
    (signed (F.neg a.toNat) (F.units (F.mag a.toNat)) + signed (F.neg b.toNat) (F.units (F.mag b.toNat)))) :=
  F.lift_of_some (by rw [F.num_of_finite ha, F.num_of_finite hb]; rfl)

theorem Fmt.lift_sub_finite : F.lift F.sub nan a b = BitVec.ofNat w (F.roundSum (F.neg a.toNat && !F.neg b.toNat)
    (signed (F.neg a.toNat) (F.units (F.mag a.toNat)) - signed (F.neg b.toNat) (F.units (F.mag b.toNat)))) :=
  F.lift_of_some (by
    rw [F.num_of_finite ha, F.num_of_finite hb, sub_eq_add_neg, ← signed_not]; rfl)

theorem Fmt.lift_mul_finite : F.lift F.mul nan a b = BitVec.ofNat w (F.pack (F.neg a.toNat ^^ F.neg b.toNat)
    (F.roundMag (F.units (F.mag a.toNat) * F.units (F.mag b.toNat)) (2 ^ F.unit))) :=
  F.lift_of_some (by rw [F.num_of_finite ha, F.num_of_finite hb]; rfl)

theorem Fmt.lift_div_finite (h0 : F.value b.toNat ≠ 0) :
    F.lift F.div nan a b = BitVec.ofNat w (F.pack (F.neg a.toNat ^^ F.neg b.toNat)
      (F.roundMag (F.units (F.mag a.toNat) * 2 ^ F.unit) (F.units (F.mag b.toNat)))) :=
  F.lift_of_some (by
    rw [Ne, F.value_eq_zero, ← F.units_eq_zero] at h0
    rw [F.num_of_finite ha, F.num_of_finite hb]
    exact if_neg h0)

variable (hF : F.Proper) (hw : F.Wide w)
include hF hw

theorem Fmt.Proper.rounds_lift_add : F.rounds (F.value a.toNat + F.value b.toNat) (F.lift F.add nan a b).toNat := by
  rw [Fmt.lift_add_finite ha hb, F.roundSum_eq, hw.toNat_pack _ (F.roundMag_lt_signBit _ _), ← F.roundSum_eq,
    Fmt.value, Fmt.value, ← add_div, ← Int.cast_add]
  exact hF.rounds_roundSum _ _

theorem Fmt.Proper.rounds_lift_sub : F.rounds (F.value a.toNat - F.value b.toNat) (F.lift F.sub nan a b).toNat := by
  rw [Fmt.lift_sub_finite ha hb, F.roundSum_eq, hw.toNat_pack _ (F.roundMag_lt_signBit _ _), ← F.roundSum_eq,
    Fmt.value, Fmt.value, ← sub_div, ← Int.cast_sub]
  exact hF.rounds_roundSum _ _

theorem Fmt.Proper.rounds_lift_mul : F.rounds (F.value a.toNat * F.value b.toNat) (F.lift F.mul nan a b).toNat := by
  rw [Fmt.lift_mul_finite ha hb, hw.toNat_pack _ (F.roundMag_lt_signBit _ _)]
  convert hF.rounds_roundMag (F.neg a.toNat ^^ F.neg b.toNat) (F.units (F.mag a.toNat) * F.units (F.mag b.toNat))
    (Nat.two_pow_pos F.unit) using 1
  rw [F.value_eq, F.value_eq, sgn_xor]
  push_cast
  ring

theorem Fmt.Proper.rounds_lift_div (h0 : F.value b.toNat ≠ 0) :
    F.rounds (F.value a.toNat / F.value b.toNat) (F.lift F.div nan a b).toNat := by
  rw [Fmt.lift_div_finite ha hb h0, hw.toNat_pack _ (F.roundMag_lt_signBit _ _)]
  rw [Ne, F.value_eq_zero, ← F.units_eq_zero] at h0
  convert hF.rounds_roundMag (F.neg a.toNat ^^ F.neg b.toNat) (F.units (F.mag a.toNat) * 2 ^ F.unit)
    (Nat.pos_of_ne_zero h0) using 1
  have hu : (F.units (F.mag b.toNat) : ℚ) ≠ 0 := by exact_mod_cast h0
  have hs := sgn_ne_zero (F.neg b.toNat)
  rw [F.value_eq, F.value_eq, sgn_xor, ← sgn_div]
  push_cast
  field_simp

end

/-! ## Special results -/

/-- The operations give a NaN for a NaN operand. -/
def NanInNanOut (op : Num → Num → Option Nat) : Prop := ∀ n, op .nan n = none ∧ op n .nan = none

theorem Fmt.add_nanInNanOut (F : Fmt) : NanInNanOut F.add := fun n => by cases n <;> exact ⟨rfl, rfl⟩

theorem Fmt.sub_nanInNanOut (F : Fmt) : NanInNanOut F.sub := fun n => by cases n <;> exact ⟨rfl, rfl⟩

theorem Fmt.mul_nanInNanOut (F : Fmt) : NanInNanOut F.mul := fun n => by cases n <;> exact ⟨rfl, rfl⟩

theorem Fmt.div_nanInNanOut (F : Fmt) : NanInNanOut F.div := fun n => by cases n <;> exact ⟨rfl, rfl⟩

/-- The NAN_BITS of 00_scope.md R18: the first NaN operand, quieted, and the default NaN where there is none. -/
def Fmt.FirstNan (F : Fmt) {w : Nat} (quiet invalid : BitVec w) (nan : BitVec w → BitVec w → BitVec w) : Prop :=
  ∀ a b, nan a b = if F.isNan a.toNat then a ||| quiet else if F.isNan b.toNat then b ||| quiet else invalid

theorem sseNan32_firstNan : binary32.FirstNan 0x00400000#32 0xFFC00000#32 sseNan32 := fun _ _ => rfl

theorem sseNan64_firstNan : binary64.FirstNan 0x0008000000000000#64 0xFFF8000000000000#64 sseNan64 := fun _ _ => rfl

section
variable {F : Fmt} {w : Nat} {quiet invalid a b : BitVec w} {nan : BitVec w → BitVec w → BitVec w}
variable {op : Num → Num → Option Nat}

theorem Fmt.FirstNan.lift_nan (hnan : F.FirstNan quiet invalid nan) (hop : NanInNanOut op) :
    (F.isNan a.toNat = true → F.lift op nan a b = a ||| quiet) ∧
    (F.isNan a.toNat = false → F.isNan b.toNat = true → F.lift op nan a b = b ||| quiet) := by
  constructor
  · intro ha
    rw [Fmt.lift_of_none (by rw [F.num_of_isNan ha]; exact (hop _).1), hnan, if_pos ha]
  · intro ha hb
    rw [Fmt.lift_of_none (by rw [F.num_of_isNan hb]; exact (hop _).2), hnan, ha, if_neg Bool.false_ne_true, if_pos hb]

theorem Fmt.FirstNan.lift_invalid (hnan : F.FirstNan quiet invalid nan) (ha : F.isNan a.toNat = false)
    (hb : F.isNan b.toNat = false) (h : op (F.num a.toNat) (F.num b.toNat) = none) : F.lift op nan a b = invalid := by
  rw [Fmt.lift_of_none h, hnan, ha, hb, if_neg Bool.false_ne_true, if_neg Bool.false_ne_true]

end

section
variable {F : Fmt} {w : Nat} (hw : F.Wide w)
include hw

theorem Fmt.Wide.isNan_inf (s : Bool) : F.isNan (F.inf w s).toNat = false := by
  rw [F.isNan_false_iff, Fmt.inf, hw.mag_ofNat_pack s F.infMag_lt_signBit]

theorem Fmt.Wide.isNan_zero (s : Bool) : F.isNan (F.zero w s).toNat = false := by
  rw [F.isNan_false_iff, Fmt.zero, hw.mag_ofNat_pack s F.signBit_pos]
  exact Nat.zero_le _

end

/-- The units of a finite number are 0 where its value is. -/
theorem Fmt.units_mag_eq_zero (F : Fmt) {pat : Nat} : F.units (F.mag pat) = 0 ↔ F.value pat = 0 :=
  F.units_eq_zero.trans F.value_eq_zero.symm

section
variable {F : Fmt} {w : Nat} {quiet invalid : BitVec w} {nan : BitVec w → BitVec w → BitVec w}
variable (hw : F.Wide w) (hnan : F.FirstNan quiet invalid nan)
include hw hnan

/-- An operation on two infinities. -/
theorem Fmt.FirstNan.lift_inf_inf (op : Num → Num → Option Nat) (s t : Bool) :
    F.lift op nan (F.inf w s) (F.inf w t) = ((op (.inf s) (.inf t)).map (BitVec.ofNat w)).getD invalid := by
  cases h : op (.inf s) (.inf t) with
  | none => exact hnan.lift_invalid (hw.isNan_inf s) (hw.isNan_inf t) (by rw [hw.num_inf, hw.num_inf, h])
  | some m => exact Fmt.lift_of_some (by rw [hw.num_inf, hw.num_inf, h])

/-- An operation on an infinity and a finite number, in either order. -/
theorem Fmt.FirstNan.lift_inf_finite (op : Num → Num → Option Nat) (s : Bool) {x : BitVec w} (hx : F.finite x.toNat) :
    F.lift op nan (F.inf w s) x =
      ((op (.inf s) (.fin (F.neg x.toNat) (F.units (F.mag x.toNat)))).map (BitVec.ofNat w)).getD invalid ∧
    F.lift op nan x (F.inf w s) =
      ((op (.fin (F.neg x.toNat) (F.units (F.mag x.toNat))) (.inf s)).map (BitVec.ofNat w)).getD invalid := by
  rw [← F.num_of_finite hx, ← hw.num_inf s]
  constructor
  · cases h : op (F.num (F.inf w s).toNat) (F.num x.toNat) with
    | none => exact hnan.lift_invalid (hw.isNan_inf s) hx.isNan h
    | some m => exact Fmt.lift_of_some h
  · cases h : op (F.num x.toNat) (F.num (F.inf w s).toNat) with
    | none => exact hnan.lift_invalid hx.isNan (hw.isNan_inf s) h
    | some m => exact Fmt.lift_of_some h

variable (hF : F.Proper)
include hF

theorem Fmt.FirstNan.div_by_zero (s : Bool) (x : BitVec w) (hx : F.finite x.toNat) :
    F.lift F.div nan x (F.zero w s) = if F.value x.toNat = 0 then invalid else F.inf w (s ^^ F.neg x.toNat) := by
  have hdiv : F.div (F.num x.toNat) (F.num (F.zero w s).toNat) =
      if F.value x.toNat = 0 then none else some (F.pack (s ^^ F.neg x.toNat) F.infMag) := by
    rw [F.num_of_finite hx, hw.num_zero hF, Bool.xor_comm s]
    simp only [Fmt.div, if_true, F.units_mag_eq_zero]
  split_ifs with h0
  · exact hnan.lift_invalid hx.isNan (hw.isNan_zero s) (hdiv.trans (if_pos h0))
  · exact Fmt.lift_of_some (hdiv.trans (if_neg h0))

/-- The operations of a format, with the NAN_BITS of R18, give the IEEE results. -/
theorem Fmt.FirstNan.specialResults :
    F.SpecialResults quiet invalid (F.lift F.add nan) (F.lift F.sub nan) (F.lift F.mul nan) (F.lift F.div nan) where
  nan op hop a b := by
    simp only [List.mem_cons, List.not_mem_nil, or_false] at hop
    rcases hop with rfl | rfl | rfl | rfl
    · exact hnan.lift_nan F.add_nanInNanOut
    · exact hnan.lift_nan F.sub_nanInNanOut
    · exact hnan.lift_nan F.mul_nanInNanOut
    · exact hnan.lift_nan F.div_nanInNanOut
  add_inf_inf s t := by
    rw [hnan.lift_inf_inf hw]
    cases s <;> cases t <;> rfl
  sub_inf_inf s t := by
    rw [hnan.lift_inf_inf hw]
    cases s <;> cases t <;> rfl
  mul_inf_inf s t := hnan.lift_inf_inf hw _ s t
  div_inf_inf s t := hnan.lift_inf_inf hw _ s t
  add_inf_finite s _ hx := hnan.lift_inf_finite hw _ s hx
  sub_inf_finite s _ hx := hnan.lift_inf_finite hw _ s hx
  mul_inf_finite s x hx := by
    obtain ⟨hleft, hright⟩ := hnan.lift_inf_finite hw F.mul s hx
    simp only [hleft, hright, Fmt.mul, F.units_mag_eq_zero, Bool.xor_comm (F.neg x.toNat) s]
    split_ifs <;> exact ⟨rfl, rfl⟩
  div_inf_finite s x hx := by
    obtain ⟨hleft, hright⟩ := hnan.lift_inf_finite hw F.div s hx
    exact ⟨hleft, by rw [hright, Bool.xor_comm s]; rfl⟩
  div_by_zero := hnan.div_by_zero hw hF
  add_zero_sign a b ha hb h0 := by
    rw [Fmt.value, Fmt.value, ← add_div, div_eq_zero_iff, or_iff_left (by positivity)] at h0
    rw [Fmt.lift_add_finite ha hb, Fmt.roundSum, if_pos (by exact_mod_cast h0), Fmt.zero]
  sub_zero_sign a b ha hb h0 := by
    rw [Fmt.value, Fmt.value, ← sub_div, div_eq_zero_iff, or_iff_left (by positivity)] at h0
    rw [Fmt.lift_sub_finite ha hb, Fmt.roundSum, if_pos (by exact_mod_cast h0), Fmt.zero]
  mul_sign a b ha hb := by
    rw [Fmt.lift_mul_finite ha hb, hw.neg_ofNat_pack _ (F.roundMag_lt_signBit _ _)]
  div_sign a b ha hb h0 := by
    rw [Fmt.lift_div_finite ha hb h0, hw.neg_ofNat_pack _ (F.roundMag_lt_signBit _ _)]

end

/-! ## The statement -/

/-- The four operations of a format on finite operands. -/
theorem Fmt.Proper.rounds_lift {F : Fmt} {w : Nat} (hF : F.Proper) (hw : F.Wide w)
    (nan : BitVec w → BitVec w → BitVec w) (a b : BitVec w) (ha : F.finite a.toNat) (hb : F.finite b.toNat) :
    F.rounds (F.value a.toNat + F.value b.toNat) (F.lift F.add nan a b).toNat ∧
    F.rounds (F.value a.toNat - F.value b.toNat) (F.lift F.sub nan a b).toNat ∧
    F.rounds (F.value a.toNat * F.value b.toNat) (F.lift F.mul nan a b).toNat ∧
    (F.value b.toNat ≠ 0 → F.rounds (F.value a.toNat / F.value b.toNat) (F.lift F.div nan a b).toNat) :=
  ⟨hF.rounds_lift_add ha hb hw, hF.rounds_lift_sub ha hb hw, hF.rounds_lift_mul ha hb hw,
    hF.rounds_lift_div ha hb hw⟩

/-- Settles O57: each operation of both formats is the lift of one on numbers, which rounds the exact result of finite
operands and has the IEEE results elsewhere. -/
theorem arithmeticRoundsToNearest : Obligations.ArithmeticRoundsToNearest := by
  simp only [Obligations.ArithmeticRoundsToNearest, add32_eq_lift, sub32_eq_lift, mul32_eq_lift, div32_eq_lift,
    add64_eq_lift, sub64_eq_lift, mul64_eq_lift, div64_eq_lift]
  exact ⟨fun P => ⟨binary32_proper.rounds_lift binary32_wide P.nan.bin32,
      binary64_proper.rounds_lift binary64_wide P.nan.bin64⟩,
    sseNan32_firstNan.specialResults binary32_wide binary32_proper,
    sseNan64_firstNan.specialResults binary64_wide binary64_proper⟩

end Sys2Proof.Machine
end

section
/-! PROOFS. The order key of a pattern orders the patterns that are no NaN as the extended real numbers (00_scope.md R14). -/

namespace Sys2Proof.Machine

/-- Signed numbers are ordered as their images under a strictly increasing function that keeps 0. -/
theorem signed_lt_signed_iff {f : Nat → Nat} (hf : StrictMono f) (h0 : f 0 = 0) (s t : Bool) (u v : Nat) :
    signed s (f u) < signed t (f v) ↔ signed s u < signed t v := by
  have huv : f u < f v ↔ u < v := hf.lt_iff_lt
  have hvu : f v < f u ↔ v < u := hf.lt_iff_lt
  have hu : f u = 0 ↔ u = 0 := by rw [← h0, hf.injective.eq_iff, h0]
  have hv : f v = 0 ↔ v = 0 := by rw [← h0, hf.injective.eq_iff, h0]
  cases s <;> cases t <;> simp only [signed, cond_true, cond_false] <;> omega

theorem Fmt.value_lt_iff (F : Fmt) (a b : Nat) : F.value a < F.value b ↔ F.key a < F.key b := by
  rw [Fmt.value, Fmt.value, div_lt_div_iff_of_pos_right (by positivity), Int.cast_lt, Fmt.key, Fmt.key,
    signed_lt_signed_iff F.units_strictMono F.units_zero]

theorem Fmt.extended_of_finite (F : Fmt) {pat : Nat} (h : F.mag pat < F.infMag) :
    F.extended pat = ((F.value pat : WithTop ℚ) : WithBot (WithTop ℚ)) := if_neg h.ne

theorem Fmt.extended_of_inf (F : Fmt) {pat : Nat} (h : F.mag pat = F.infMag) :
    F.extended pat = if F.neg pat then ⊥ else ((⊤ : WithTop ℚ) : WithBot (WithTop ℚ)) := if_pos h

/-- The key of a number lies strictly between those of the infinities. -/
theorem Fmt.key_bounds (F : Fmt) {pat : Nat} (h : F.mag pat < F.infMag) :
    -(F.infMag : Int) < F.key pat ∧ F.key pat < F.infMag := by
  unfold Fmt.key
  cases F.neg pat <;> simp only [signed, cond_true, cond_false] <;> omega

theorem Fmt.key_of_inf (F : Fmt) {pat : Nat} (h : F.mag pat = F.infMag) :
    F.key pat = if F.neg pat then -(F.infMag : Int) else F.infMag := by
  rw [Fmt.key, h]
  cases F.neg pat <;> rfl

theorem Fmt.Proper.extended_lt_iff {F : Fmt} (hF : F.Proper) {a b : Nat} (ha : F.mag a ≤ F.infMag)
    (hb : F.mag b ≤ F.infMag) : F.extended a < F.extended b ↔ F.key a < F.key b := by
  rcases ha.lt_or_eq with hfa | hia <;> rcases hb.lt_or_eq with hfb | hib
  · rw [F.extended_of_finite hfa, F.extended_of_finite hfb, WithBot.coe_lt_coe, WithTop.coe_lt_coe, F.value_lt_iff]
  · obtain ⟨hlow, hhigh⟩ := F.key_bounds hfa
    rw [F.extended_of_finite hfa, F.extended_of_inf hib, F.key_of_inf hib]
    split_ifs
    · simp [hlow.le]
    · exact iff_of_true (WithBot.coe_lt_coe.mpr (WithTop.coe_lt_top _)) hhigh
  · obtain ⟨hlow, hhigh⟩ := F.key_bounds hfb
    rw [F.extended_of_finite hfb, F.extended_of_inf hia, F.key_of_inf hia]
    split_ifs
    · simp [hlow]
    · simp [hhigh.le]
  · rw [F.extended_of_inf hia, F.extended_of_inf hib, F.key_of_inf hia, F.key_of_inf hib]
    split_ifs
    · simp
    · simp [hF.infMag_pos]
    · simp
    · simp

/-- Equal extended reals are those of which neither is below the other. -/
theorem Fmt.Proper.extended_eq_iff {F : Fmt} (hF : F.Proper) {a b : Nat} (ha : F.mag a ≤ F.infMag)
    (hb : F.mag b ≤ F.infMag) : F.extended a = F.extended b ↔ F.key a = F.key b := by
  rw [eq_iff_le_not_lt, ← not_lt, hF.extended_lt_iff hb ha, hF.extended_lt_iff ha hb, not_lt, ← eq_iff_le_not_lt]

section
variable {F : Fmt}

theorem Fmt.lt_of_isNan {a b : Nat} (h : F.isNan a = true ∨ F.isNan b = true) : F.lt a b = false := by
  rcases h with h | h <;> simp [Fmt.lt, h]

theorem Fmt.eq_of_isNan {a b : Nat} (h : F.isNan a = true ∨ F.isNan b = true) : F.eq a b = false := by
  rcases h with h | h <;> simp [Fmt.eq, h]

theorem Fmt.Proper.lt_iff (hF : F.Proper) {a b : Nat} (ha : F.isNan a = false) (hb : F.isNan b = false) :
    F.lt a b = true ↔ F.extended a < F.extended b := by
  rw [hF.extended_lt_iff ((F.isNan_false_iff a).mp ha) ((F.isNan_false_iff b).mp hb)]
  simp [Fmt.lt, ha, hb]

theorem Fmt.Proper.eq_iff (hF : F.Proper) {a b : Nat} (ha : F.isNan a = false) (hb : F.isNan b = false) :
    F.eq a b = true ↔ F.extended a = F.extended b := by
  rw [hF.extended_eq_iff ((F.isNan_false_iff a).mp ha) ((F.isNan_false_iff b).mp hb)]
  simp [Fmt.eq, ha, hb]

end

theorem ge32_of_isNan {a b : F32} (h : isNan32 a = true ∨ isNan32 b = true) : ge32 a b = false := by
  rw [ge32, lt32, eq32, Fmt.lt_of_isNan h.symm, Fmt.eq_of_isNan h, Bool.or_false]

theorem ge32_iff {a b : F32} (ha : isNan32 a = false) (hb : isNan32 b = false) :
    ge32 a b = true ↔ binary32.extended b.toNat ≤ binary32.extended a.toNat := by
  rw [ge32, Bool.or_eq_true, lt32, eq32, binary32_proper.lt_iff hb ha, binary32_proper.eq_iff ha hb, le_iff_lt_or_eq,
    eq_comm]

/-- Settles O59: with no NaN each comparison is one of order keys, which are ordered as the extended reals. -/
theorem comparisonsFollowTheValues : Obligations.ComparisonsFollowTheValues :=
  ⟨fun _ _ => ⟨fun h => ⟨Fmt.lt_of_isNan h, Fmt.eq_of_isNan h, ge32_of_isNan h⟩,
      fun ha hb => ⟨binary32_proper.lt_iff ha hb, binary32_proper.eq_iff ha hb, ge32_iff ha hb⟩⟩,
    fun _ _ => ⟨Fmt.lt_of_isNan, binary64_proper.lt_iff⟩⟩

end Sys2Proof.Machine
end

section
/-! PROOFS. `trunc_i32` rounds toward zero where the result fits, and `i2f32` rounds to nearest (00_scope.md R16). -/

namespace Sys2Proof.Machine

/-! ## Truncation -/

/-- The whole part of a number of units. -/
theorem Fmt.floor_units (F : Fmt) (u : Nat) : ⌊(u : ℚ) / 2 ^ F.unit⌋ = ((u / 2 ^ F.unit : Nat) : Int) := by
  have h := Rat.floor_natCast_div_natCast u (2 ^ F.unit)
  push_cast at h ⊢
  exact h

theorem Fmt.value_nonneg_iff (F : Fmt) (pat : Nat) : 0 ≤ F.value pat ↔ F.neg pat = false ∨ F.mag pat = 0 := by
  have hu : (0 : ℚ) ≤ F.units (F.mag pat) / 2 ^ F.unit := by positivity
  rw [← F.value_eq_zero, F.value_eq, mul_div_assoc]
  cases F.neg pat
  · simpa using hu
  · simp only [sgn_true, neg_one_mul, neg_nonneg, neg_eq_zero, Bool.true_eq_false, false_or]
    exact ⟨fun h => le_antisymm h hu, fun h => h.le⟩

theorem Fmt.value_nonpos_iff (F : Fmt) (pat : Nat) : F.value pat ≤ 0 ↔ F.neg pat = true ∨ F.mag pat = 0 := by
  have hu : (0 : ℚ) ≤ F.units (F.mag pat) / 2 ^ F.unit := by positivity
  rw [← F.value_eq_zero, F.value_eq, mul_div_assoc]
  cases F.neg pat
  · simp only [sgn_false, one_mul, Bool.false_eq_true, false_or]
    exact ⟨fun h => le_antisymm h hu, fun h => h.le⟩
  · simpa using hu

theorem Fmt.floor_value (F : Fmt) {pat : Nat} (h : 0 ≤ F.value pat) :
    ⌊F.value pat⌋ = ((F.units (F.mag pat) / 2 ^ F.unit : Nat) : Int) := by
  rcases (F.value_nonneg_iff pat).mp h with hs | h0
  · rw [F.value_eq, hs, sgn_false, one_mul, F.floor_units]
  · simp [F.value_eq, h0]

theorem Fmt.ceil_value (F : Fmt) {pat : Nat} (h : F.value pat ≤ 0) :
    ⌈F.value pat⌉ = -((F.units (F.mag pat) / 2 ^ F.unit : Nat) : Int) := by
  rcases (F.value_nonpos_iff pat).mp h with hs | h0
  · rw [F.value_eq, hs, sgn_true, neg_one_mul, neg_div, Int.ceil_neg, F.floor_units]
  · simp [F.value_eq, h0]

/-- The i32 of a whole part `t` with a sign, or `oor` where that does not fit. -/
def signedWhole (oor : I32) (s : Bool) (t : Nat) : I32 :=
  if t < 2 ^ 31 ∨ s = true ∧ t = 2 ^ 31 then BitVec.ofInt 32 (signed s t) else oor

section
variable {oor : I32} {s : Bool} {t : Nat}

theorem signedWhole_toInt (h : t < 2 ^ 31 ∨ s = true ∧ t = 2 ^ 31) : (signedWhole oor s t).toInt = signed s t := by
  have hbounds : -2 ^ 31 ≤ signed s t ∧ signed s t < 2 ^ 31 := by
    rcases h with hlt | ⟨rfl, rfl⟩
    · cases s <;> simp only [signed, cond_true, cond_false] <;> omega
    · decide
  rw [signedWhole, if_pos h]
  exact BitVec.toInt_ofInt_eq_self (by decide) hbounds.1 hbounds.2

theorem signedWhole_of_nonneg (h : s = false ∨ t = 0) :
    ((t : Int) < 2 ^ 31 → (signedWhole oor s t).toInt = t) ∧ (¬(t : Int) < 2 ^ 31 → signedWhole oor s t = oor) := by
  constructor <;> intro hfit
  · rw [signedWhole_toInt (.inl (by omega))]
    rcases h with rfl | rfl
    · rfl
    · cases s <;> rfl
  · obtain rfl : s = false := h.resolve_right (by omega)
    exact if_neg (by simp; omega)

theorem signedWhole_of_nonpos (h : s = true ∨ t = 0) :
    (-2 ^ 31 ≤ -(t : Int) → (signedWhole oor s t).toInt = -t) ∧
    (¬-2 ^ 31 ≤ -(t : Int) → signedWhole oor s t = oor) := by
  constructor <;> intro hfit
  · rcases h with rfl | rfl
    · rw [signedWhole_toInt (by simp; omega)]
      rfl
    · rw [signedWhole_toInt (.inl (by decide))]
      cases s <;> rfl
  · exact if_neg (by simp; omega)

end

section
variable (P : Params) (F : Fmt) {pat : Nat}

theorem Fmt.trunc_of_not_finite (h : ¬F.finite pat) : F.trunc P (F.num pat) = P.cvtOor := by
  rw [Fmt.finite, not_lt] at h
  rcases h.lt_or_eq with hnan | hinf
  · rw [F.num_of_isNan ((F.isNan_iff pat).mpr hnan)]; rfl
  · rw [F.num_of_mag_eq_infMag hinf.symm]; rfl

theorem Fmt.trunc_of_finite (h : F.finite pat) :
    F.trunc P (F.num pat) = signedWhole P.cvtOor (F.neg pat) (F.units (F.mag pat) / 2 ^ F.unit) := by
  rw [F.num_of_finite h]; rfl

theorem Fmt.whole_of_mag_zero (h : F.mag pat = 0) : F.units (F.mag pat) / 2 ^ F.unit = 0 := by
  rw [h, F.units_zero, Nat.zero_div]

theorem Fmt.trunc_truncates (pat : Nat) : F.truncates P.cvtOor pat (F.trunc P (F.num pat)) := by
  refine ⟨F.trunc_of_not_finite P, fun hfin hv => ite_prop_iff_and.mpr ?_, fun hfin hv => ite_prop_iff_and.mpr ?_⟩
  · rw [F.trunc_of_finite P hfin, F.floor_value hv]
    exact signedWhole_of_nonneg (((F.value_nonneg_iff pat).mp hv).imp_right F.whole_of_mag_zero)
  · rw [F.trunc_of_finite P hfin, F.ceil_value hv]
    exact signedWhole_of_nonpos (((F.value_nonpos_iff pat).mp hv).imp_right F.whole_of_mag_zero)

end

/-! ## From whole numbers -/

theorem i2f32_toNat (n : I32) : (i2f32 n).toNat =
    binary32.pack (decide (n.toInt < 0)) (binary32.roundMag (n.toInt.natAbs * 2 ^ binary32.unit) 1) :=
  binary32_wide.toNat_pack _ (binary32.roundMag_lt_signBit _ _)

theorem i2f32_rounds (n : I32) : binary32.rounds n.toInt (i2f32 n).toNat := by
  rw [i2f32_toNat]
  convert binary32_proper.rounds_roundMag (decide (n.toInt < 0)) (n.toInt.natAbs * 2 ^ binary32.unit) one_pos using 1
  rw [Nat.cast_one, div_one, Nat.cast_mul, ← mul_assoc, sgn_mul_natAbs, Nat.cast_pow, Nat.cast_ofNat,
    mul_div_cancel_right₀ _ (by positivity)]

theorem neg_i2f32 (n : I32) : binary32.neg (i2f32 n).toNat = decide (n.toInt < 0) := by
  rw [i2f32_toNat, binary32.neg_pack _ (binary32.roundMag_lt_signBit _ _)]

/-- Settles O60: the whole part of a number's units is its floor or its ceiling, and `i2f32` rounds exact units. -/
theorem truncationIsTowardZero : Obligations.TruncationIsTowardZero :=
  ⟨fun P y => binary64.trunc_truncates P y.toNat, fun P x => binary32.trunc_truncates P x.toNat, rfl,
    fun n => ⟨i2f32_rounds n, neg_i2f32 n⟩⟩

end Sys2Proof.Machine
end

section
/-! PROOFS. Conversions between the formats and the square in binary64: rounding in general (00_scope.md R13), exact where
the significant bits and the exponents fit (R15). -/

namespace Sys2Proof.Machine

/-! ## Conversions -/

/-- A finite number of one format, rounded into another. -/
def Fmt.convertFinite (F G : Fmt) (pat : Nat) : Nat :=
  G.pack (F.neg pat) (G.roundMag (F.units (F.mag pat) * 2 ^ G.unit) (2 ^ F.unit))

theorem Fmt.convert_of_finite (F G : Fmt) {pat : Nat} (h : F.finite pat) :
    F.convert G (F.num pat) = some (F.convertFinite G pat) := by
  rw [F.num_of_finite h]; rfl

theorem Fmt.convert_of_isNan (F G : Fmt) {pat : Nat} (h : F.isNan pat = true) : F.convert G (F.num pat) = none := by
  rw [F.num_of_isNan h]; rfl

theorem Fmt.neg_convertFinite (F G : Fmt) (pat : Nat) : G.neg (F.convertFinite G pat) = F.neg pat :=
  G.neg_pack _ (G.roundMag_lt_signBit _ _)

theorem Fmt.Proper.rounds_convertFinite {G : Fmt} (hG : G.Proper) (F : Fmt) (pat : Nat) :
    G.rounds (F.value pat) (F.convertFinite G pat) := by
  rw [Fmt.convertFinite]
  convert hG.rounds_roundMag (F.neg pat) (F.units (F.mag pat) * 2 ^ G.unit) (Nat.two_pow_pos F.unit) using 1
  rw [F.value_eq]
  push_cast
  field_simp

section
variable (P : Params)

theorem f64_of_convert {x : F32} {m : Nat} (h : binary32.convert binary64 (num32 x) = some m) :
    f64 P x = BitVec.ofNat 64 m := by simp [f64, h]

theorem cvt32_of_convert {y : F64} {m : Nat} (h : binary64.convert binary32 (num64 y) = some m) :
    cvt32 P y = BitVec.ofNat 32 m := by simp [cvt32, h]

theorem f64_of_isNan {x : F32} (h : isNan32 x = true) : f64 P x = P.nan.widen x := by
  have hconv : binary32.convert binary64 (num32 x) = none := binary32.convert_of_isNan binary64 h
  simp [f64, hconv]

theorem cvt32_of_isNan {y : F64} (h : isNan64 y = true) : cvt32 P y = P.nan.narrow y := by
  have hconv : binary64.convert binary32 (num64 y) = none := binary64.convert_of_isNan binary32 h
  simp [cvt32, hconv]

theorem f64_toNat {x : F32} (h : binary32.finite x.toNat) : (f64 P x).toNat = binary32.convertFinite binary64 x.toNat := by
  rw [f64_of_convert P (binary32.convert_of_finite binary64 h)]
  exact binary64_wide.toNat_pack _ (binary64.roundMag_lt_signBit _ _)

theorem cvt32_toNat {y : F64} (h : binary64.finite y.toNat) :
    (cvt32 P y).toNat = binary64.convertFinite binary32 y.toNat := by
  rw [cvt32_of_convert P (binary64.convert_of_finite binary32 h)]
  exact binary32_wide.toNat_pack _ (binary32.roundMag_lt_signBit _ _)

theorem cvt32_rounds {y : F64} (h : binary64.finite y.toNat) :
    binary32.rounds (binary64.value y.toNat) (cvt32 P y).toNat := by
  rw [cvt32_toNat P h]
  exact binary32_proper.rounds_convertFinite _ _

theorem neg_cvt32 {y : F64} (h : binary64.finite y.toNat) : binary32.neg (cvt32 P y).toNat = binary64.neg y.toNat := by
  rw [cvt32_toNat P h, Fmt.neg_convertFinite]

theorem f64_rounds {x : F32} (h : binary32.finite x.toNat) :
    binary64.rounds (binary32.value x.toNat) (f64 P x).toNat := by
  rw [f64_toNat P h]
  exact binary64_proper.rounds_convertFinite _ _

theorem neg_f64 {x : F32} (h : binary32.finite x.toNat) : binary64.neg (f64 P x).toNat = binary32.neg x.toNat := by
  rw [f64_toNat P h, Fmt.neg_convertFinite]

end

/-! ## Exact results -/

/-- A number of at most `frac + 1` significant bits, below infinity, has a pattern. -/
theorem Fmt.exists_finite (F : Fmt) (s : Bool) {k : Nat} (e : Nat) (hk : k < 2 ^ (F.frac + 1))
    (hlt : k * 2 ^ e < F.units F.infMag) :
    ∃ pat, pat < 2 * F.signBit ∧ F.finite pat ∧ F.value pat = sgn s * (k * 2 ^ e) / 2 ^ F.unit := by
  obtain ⟨m, hm⟩ := F.exists_units e hk
  have hinf : m < F.infMag := F.units_strictMono.lt_iff_lt.mp (hm ▸ hlt)
  have hms := hinf.trans F.infMag_lt_signBit
  refine ⟨F.pack s m, F.pack_lt s hms, ?_, ?_⟩
  · rw [Fmt.finite, F.mag_pack s hms]; exact hinf
  · rw [F.value_eq, F.mag_pack s hms, F.neg_pack s hms, hm]
    push_cast
    rfl

theorem binary32_units_infMag : binary32.units binary32.infMag = 2 ^ 277 := by decide +kernel

theorem binary64_units_infMag : binary64.units binary64.infMag = 2 ^ 2098 := by decide +kernel

theorem units_lt_of_finite {x : F32} (h : binary32.finite x.toNat) : binary32.units (binary32.mag x.toNat) < 2 ^ 277 :=
  binary32_units_infMag ▸ binary32.units_strictMono h

theorem mul_two_pow_lt {u a d b : Nat} (h : u < 2 ^ a) (hle : a + d ≤ b) : u * 2 ^ d < 2 ^ b :=
  calc u * 2 ^ d < 2 ^ a * 2 ^ d := Nat.mul_lt_mul_of_pos_right h (Nat.two_pow_pos d)
    _ = 2 ^ (a + d) := (pow_add 2 a d).symm
    _ ≤ 2 ^ b := Nat.pow_le_pow_right two_pos hle

/-- Every finite binary32 number is one of binary64. -/
theorem exists_widened {x : F32} (h : binary32.finite x.toNat) :
    ∃ pat, pat < 2 * binary64.signBit ∧ binary64.finite pat ∧ binary64.value pat = binary32.value x.toNat := by
  have hlt := units_lt_of_finite h
  obtain ⟨k, e, hu, hk⟩ := binary32.units_significand (binary32.mag x.toNat)
  rw [hu] at hlt
  have hk64 : k < 2 ^ (binary64.frac + 1) := hk.trans (by decide)
  have hlt64 : k * 2 ^ (e + 925) < binary64.units binary64.infMag := by
    rw [binary64_units_infMag, pow_add, ← mul_assoc]
    exact mul_two_pow_lt hlt (by decide)
  obtain ⟨pat, hpat, hfin, hval⟩ := binary64.exists_finite (binary32.neg x.toNat) (e + 925) hk64 hlt64
  refine ⟨pat, hpat, hfin, ?_⟩
  have hunit : binary64.unit = binary32.unit + 925 := rfl
  rw [hval, binary32.value_eq, hu, hunit, pow_add, pow_add]
  push_cast
  field_simp

/-- So is its square. -/
theorem exists_square {x : F32} (h : binary32.finite x.toNat) :
    ∃ pat, pat < 2 * binary64.signBit ∧ binary64.finite pat ∧ binary64.value pat = binary32.value x.toNat ^ 2 := by
  have hlt := units_lt_of_finite h
  obtain ⟨k, e, hu, hk⟩ := binary32.units_significand (binary32.mag x.toNat)
  rw [hu] at hlt
  have hk64 : k ^ 2 < 2 ^ (binary64.frac + 1) :=
    (Nat.pow_lt_pow_left hk two_ne_zero).trans (by decide)
  have hlt64 : k ^ 2 * 2 ^ (2 * e + 776) < binary64.units binary64.infMag := by
    rw [binary64_units_infMag, pow_add, ← mul_assoc, mul_comm 2 e, pow_mul, ← mul_pow]
    have hlt2 : (k * 2 ^ e) ^ 2 < 2 ^ (277 * 2) := by
      rw [pow_mul]
      exact Nat.pow_lt_pow_left hlt two_ne_zero
    exact mul_two_pow_lt hlt2 (by decide)
  obtain ⟨pat, hpat, hfin, hval⟩ := binary64.exists_finite false (2 * e + 776) hk64 hlt64
  refine ⟨pat, hpat, hfin, ?_⟩
  have hunit : binary64.unit = binary32.unit + binary32.unit + 776 := rfl
  have hsgn : sgn (binary32.neg x.toNat) ^ 2 = 1 := by rw [← sq_abs, abs_sgn, one_pow]
  rw [hval, binary32.value_eq, hu, hunit, pow_add, pow_add, div_pow, mul_pow, hsgn, sgn_false]
  push_cast
  field_simp
  ring

section
variable (P : Params) {x : F32} (h : binary32.finite x.toNat)
include h

theorem f64_exact : binary64.finite (f64 P x).toNat ∧ binary64.value (f64 P x).toNat = binary32.value x.toNat := by
  obtain ⟨pat, hlt, hfin, hval⟩ := exists_widened h
  exact (f64_rounds P h).exact binary64_proper hlt hfin hval

theorem sq64_exact : binary64.finite (sq64 P x).toNat ∧
    binary64.value (sq64 P x).toNat = binary32.value x.toNat ^ 2 ∧ binary64.neg (sq64 P x).toNat = false := by
  obtain ⟨hfin, hval⟩ := f64_exact P h
  obtain ⟨pat, hlt, hfinSq, hvalSq⟩ := exists_square h
  have hround := binary64_proper.rounds_lift_mul (nan := P.nan.bin64) hfin hfin binary64_wide
  rw [hval, ← sq] at hround
  obtain ⟨hfinMul, hvalMul⟩ := hround.exact binary64_proper hlt hfinSq hvalSq
  rw [sq64, mul64_eq_lift]
  refine ⟨hfinMul, hvalMul, ?_⟩
  rw [Fmt.lift_mul_finite hfin hfin, binary64_wide.neg_ofNat_pack _ (binary64.roundMag_lt_signBit _ _), Bool.xor_self]

/-- Narrowing undoes widening. -/
theorem cvt32_f64 : cvt32 P (f64 P x) = x := by
  obtain ⟨hfin, hval⟩ := f64_exact P h
  obtain ⟨-, hback⟩ := (cvt32_rounds P hfin).exact binary32_proper (binary32_wide.toNat_lt x) h hval.symm
  refine BitVec.eq_of_toNat_eq (binary32.eq_of_neg_mag (binary32_wide.toNat_lt _) (binary32_wide.toNat_lt x) ?_ ?_)
  · rw [neg_cvt32 P hfin, neg_f64 P h]
  · exact binary32.mag_eq_of_value_eq (hback.trans hval)

end

/-- Both conversions keep an infinity. -/
theorem conversions_inf (P : Params) :
    f64 P 0x7F800000#32 = 0x7FF0000000000000#64 ∧ f64 P 0xFF800000#32 = 0xFFF0000000000000#64 ∧
    cvt32 P 0x7FF0000000000000#64 = 0x7F800000#32 ∧ cvt32 P 0xFFF0000000000000#64 = 0xFF800000#32 :=
  ⟨f64_of_convert P (m := 0x7FF0000000000000) (by decide +kernel),
    f64_of_convert P (m := 0xFFF0000000000000) (by decide +kernel),
    cvt32_of_convert P (m := 0x7F800000) (by decide +kernel), cvt32_of_convert P (m := 0xFF800000) (by decide +kernel)⟩

end Sys2Proof.Machine
end

section
/-! PROOFS. The default sine: where both ends of the enclosure round to one pattern, the real sine between them does too
(00_scope.md R17). -/

namespace Sys2Proof.Machine

/-! ## Between two numbers that round alike -/

/-- A point no further from `v` than from `v'` at both ends of an interval is so inside, and ties inside are ties at an
end. -/
theorem dist_between {v v' a b r : ℝ} (har : a ≤ r) (hrb : r ≤ b) (ha : |v - a| ≤ |v' - a|) (hb : |v - b| ≤ |v' - b|) :
    |v - r| ≤ |v' - r| ∧ (|v - r| = |v' - r| → v' ≠ v → |v - a| = |v' - a| ∨ |v - b| = |v' - b|) := by
  rw [← sq_le_sq] at *
  simp only [← sq_eq_sq_iff_abs_eq_abs]
  rcases lt_trichotomy v v' with hlt | rfl | hgt
  · have hmid : 2 * b ≤ v + v' := by nlinarith
    refine ⟨by nlinarith, fun htie _ => .inr ?_⟩
    have hr : v + v' = 2 * r := by nlinarith
    nlinarith
  · exact ⟨le_rfl, fun _ hne => absurd rfl hne⟩
  · have hmid : v + v' ≤ 2 * a := by nlinarith
    refine ⟨by nlinarith, fun htie _ => .inl ?_⟩
    have hr : v + v' = 2 * r := by nlinarith
    nlinarith

theorem Fmt.nearest.nearestReal_between {F : Fmt} {a b : ℚ} {r : ℝ} {pat : Nat} (ha : F.nearest a pat)
    (hb : F.nearest b pat) (har : (a : ℝ) ≤ r) (hrb : r ≤ b) : F.nearestReal r pat := by
  refine ⟨ha.1, fun other hlt hfin => ?_⟩
  obtain ⟨hmina, htiea⟩ := ha.2 other hlt hfin
  obtain ⟨hminb, htieb⟩ := hb.2 other hlt hfin
  obtain ⟨hmin, htie⟩ := dist_between (v := F.value pat) (v' := F.value other) har hrb
    (by exact_mod_cast hmina) (by exact_mod_cast hminb)
  refine ⟨hmin, fun heq hne => ?_⟩
  rcases htie heq (by exact_mod_cast hne) with hend | hend
  · exact htiea (by exact_mod_cast hend) hne
  · exact htieb (by exact_mod_cast hend) hne

/-- Ends that round alike do not overflow if a real number between them does not. -/
theorem Fmt.rounds.nearestReal_between {F : Fmt} {a b : ℚ} {r : ℝ} {pat : Nat} (ha : F.rounds a pat) (hb : F.rounds b pat)
    (har : (a : ℝ) ≤ r) (hrb : r ≤ b) (hr : |r| < F.overflowBound) : F.nearestReal r pat := by
  obtain ⟨hlow, hhigh⟩ := abs_lt.mp hr
  have hapos : a < F.overflowBound := by exact_mod_cast har.trans_lt hhigh
  have hbneg : -F.overflowBound < b := by exact_mod_cast hlow.trans_le hrb
  have hainside : |a| < F.overflowBound := by
    by_contra hout
    obtain ⟨hinf, hsign⟩ := ha.2 (not_lt.mp hout)
    have haneg : a < 0 := by
      by_contra h0
      exact hout (by rwa [abs_of_nonneg (not_lt.mp h0)])
    have hbinside : |b| < F.overflowBound := by
      by_contra hbout
      have hsignb := (hb.2 (not_lt.mp hbout)).2
      rw [hsign, decide_eq_true haneg, eq_comm, decide_eq_true_iff] at hsignb
      exact hbout (by rw [abs_of_neg hsignb]; linarith)
    exact (hb.1 hbinside).1.ne hinf
  have hbinside : |b| < F.overflowBound := by
    by_contra hbout
    exact (ha.1 hainside).1.ne (hb.2 (not_lt.mp hbout)).1
  exact (ha.1 hainside).nearestReal_between (hb.1 hbinside) har hrb

/-- A number of the format is nearest to itself. -/
theorem Fmt.nearestReal_value {F : Fmt} {pat : Nat} (h : F.finite pat) : F.nearestReal (F.value pat) pat := by
  refine ⟨h, fun other _ _ => ?_⟩
  rw [sub_self, abs_zero]
  refine ⟨abs_nonneg _, fun heq hne => absurd ?_ hne⟩
  exact_mod_cast sub_eq_zero.mp (abs_eq_zero.mp heq.symm)

/-! ## The enclosure's ends -/

theorem Fmt.roundRatio_toNat {F : Fmt} {w : Nat} (hw : F.Wide w) (num : Int) (den : Nat) :
    (BitVec.ofNat w (F.roundRatio num den)).toNat = F.roundRatio num den :=
  hw.toNat_pack _ (F.roundMag_lt_signBit _ _)

theorem Fmt.Proper.rounds_roundRatio {F : Fmt} (hF : F.Proper) (num : Int) {den : Nat} (hd : 0 < den) :
    F.rounds ((num : ℚ) / den) (F.roundRatio num den) := by
  rw [Fmt.roundRatio]
  convert hF.rounds_roundMag (decide (num < 0)) (num.natAbs * 2 ^ F.unit) hd using 1
  rw [← sgn_mul_natAbs num]
  push_cast
  field_simp

theorem one_lt_overflowBound32 : 1 < binary32.overflowBound := by
  norm_num [Fmt.overflowBound, binary32]

theorem Fmt.value_cast_real (F : Fmt) (pat : Nat) :
    ((F.value pat : ℚ) : ℝ) = signed (F.neg pat) (F.units (F.mag pat)) / 2 ^ F.unit := by
  unfold Fmt.value
  push_cast
  rfl

theorem sineRounded_nearest {x : F32} {pat : Nat} (h0 : binary32.value x.toNat ≠ 0)
    (h : sineRounded (binary32.neg x.toNat) (binary32.units (binary32.mag x.toNat)) = some pat) :
    binary32.nearestReal (Real.sin (binary32.value x.toNat)) (BitVec.ofNat 32 pat).toNat := by
  rw [Ne, ← Fmt.units_mag_eq_zero] at h0
  obtain ⟨e, hden, hlow, hhigh, hle, hge⟩ := sineRounded_spec h0 h
  rw [← Fmt.value_cast_real] at hle hge
  have hroundLow := binary32_proper.rounds_roundRatio e.low hden
  have hroundHigh := binary32_proper.rounds_roundRatio e.high hden
  rw [← hlow, Fmt.roundRatio_toNat binary32_wide]
  rw [hhigh, ← hlow] at hroundHigh
  refine hroundLow.nearestReal_between hroundHigh (by exact_mod_cast hle) (by exact_mod_cast hge) ?_
  exact (Real.abs_sin_le_one _).trans_lt (by exact_mod_cast one_lt_overflowBound32)

/-! ## The default sine -/

theorem specSine_of_isNan {x : F32} (h : isNan32 x = true) : specSine x = x ||| 0x00400000#32 := by
  have hnum : num32 x = .nan := binary32.num_of_isNan h
  simp [specSine, roundedSine, hnum, sseNan32, h]

theorem specSine_of_inf {x : F32} {s : Bool} (h : num32 x = .inf s) (hnan : isNan32 x = false) :
    specSine x = 0xFFC00000#32 := by
  simp [specSine, roundedSine, h, sseNan32, hnan]

section
variable {x : F32} (h : binary32.finite x.toNat)
include h

theorem specSine_of_finite : specSine x =
    ((sineRounded (binary32.neg x.toNat) (binary32.units (binary32.mag x.toNat))).map (BitVec.ofNat 32)).getD
      (Config.sineOpen x) := by
  have hnum : num32 x = .fin _ _ := binary32.num_of_finite h
  simp only [specSine, roundedSine, hnum]
  cases sineRounded (binary32.neg x.toNat) (binary32.units (binary32.mag x.toNat)) <;> rfl

theorem specSine_of_zero (h0 : binary32.value x.toNat = 0) : specSine x = x := by
  have hrounded : sineRounded (binary32.neg x.toNat) (binary32.units (binary32.mag x.toNat)) =
      some (binary32.pack (binary32.neg x.toNat) (binary32.mag x.toNat)) := by
    rw [sineRounded, if_pos (Fmt.units_mag_eq_zero _ |>.mpr h0), binary32.value_eq_zero.mp h0]
  rw [specSine_of_finite h, hrounded]
  exact binary32_wide.ofNat_pack_neg_mag x

theorem specSine_of_open (hs : ¬sineSettled x = true) : specSine x = Config.sineOpen x := by
  rw [sineSettled, Option.not_isSome_iff_eq_none] at hs
  rw [specSine_of_finite h, hs]
  rfl

theorem specSine_nearest (hs : sineSettled x = true) :
    binary32.nearestReal (Real.sin (binary32.value x.toNat)) (specSine x).toNat := by
  by_cases h0 : binary32.value x.toNat = 0
  · rw [specSine_of_zero h h0]
    have hself := Fmt.nearestReal_value h
    rw [h0, Rat.cast_zero] at hself
    rwa [h0, Rat.cast_zero, Real.sin_zero]
  · obtain ⟨pat, hpat⟩ := Option.isSome_iff_exists.mp hs
    rw [specSine_of_finite h, hpat]
    exact sineRounded_nearest h0 hpat

end

/-- Settles O58: widening and squaring are exact because their results are numbers of binary64; the sine is enclosed
between two numbers that round alike. -/
theorem wideningAndSquareAreExact : Obligations.WideningAndSquareAreExact := by
  refine ⟨fun P => ⟨fun x h => ?_, fun y h => ⟨cvt32_rounds P h, neg_cvt32 P h⟩, conversions_inf P⟩,
    fun y h => cvt32_of_isNan specParams h,
    fun x h => ⟨f64_of_isNan specParams h, specSine_of_isNan h⟩, fun x h => ⟨specSine_of_zero h, ?_⟩,
    specSine_of_inf (x := 0x7F800000#32) (s := false) (by decide +kernel) (by decide +kernel),
    specSine_of_inf (x := 0xFF800000#32) (s := true) (by decide +kernel) (by decide +kernel)⟩
  · obtain ⟨hfin, hval⟩ := f64_exact P h
    obtain ⟨hfinSq, hvalSq, hnegSq⟩ := sq64_exact P h
    exact ⟨hfin, hval, hfinSq, hvalSq, hnegSq, cvt32_f64 P h⟩
  · split_ifs with hs
    · exact specSine_nearest h hs
    · exact specSine_of_open h hs

end Sys2Proof.Machine
end

section
/-! PROOFS. The host's accesses: a write to CTRL is the command it names, a PRM access is that of one field, and what the
registers of the window hold (10_state.md R31 to R40; 20_memory.md R81 to R87). -/

namespace Sys2Proof.Machine

/-! ## CTRL -/

/-- The command of a word is one instruction of the command format, and it does what the write does (R35). -/
theorem exec_decodeCmd (v : BitVec 32) (s : State) : exec (decodeCmd v) s = .next (command specParams v s) := by
  unfold decodeCmd command
  have hlt : (v.extractLsb' 0 4).toNat < 16 := (v.extractLsb' 0 4).isLt
  generalize (v.extractLsb' 0 4).toNat = n at hlt
  interval_cases n <;> rfl

/-- Only the low four bits of a word written to CTRL count (30_encoding.md R114). -/
theorem decodeCmd_low (v : BitVec 32) : decodeCmd (v &&& 0xF#32) = decodeCmd v := by
  have hlow : (v &&& 0xF#32).extractLsb' 0 4 = v.extractLsb' 0 4 := by
    rw [BitVec.extractLsb'_and]
    exact BitVec.and_allOnes
  unfold decodeCmd
  rw [hlow]

/-- A write to CTRL, in full. -/
theorem exec_wr_ctrl (v : BitVec 32) (s : State) : exec (.wr 0x060#16 v) s = .next (command specParams v s) :=
  exec_wr rfl v s

/-- Settles O4: a write to CTRL runs the command of its low four bits, and CTRL holds nothing to read. -/
theorem ctrlWriteIssuesCommand : Obligations.CtrlWriteIssuesCommand := fun v s =>
  ⟨(exec_wr_ctrl v s).trans (exec_decodeCmd v s).symm, (decodeCmd_low v).symm, exec_rd rfl s⟩

/-! ## The parameter record -/

/-- Offset `4n` names field `n` (20_memory.md R81), and is aligned. -/
theorem prmOffset {n : Nat} (hn : n < 24) :
    (BitVec.ofNat 16 (4 * n)).toNat = 4 * n ∧ alignedOffset (BitVec.ofNat 16 (4 * n)) = true ∧
      windowReg (BitVec.ofNat 16 (4 * n)) = .prm n := by
  have hoff := offset_word 0 n rfl (by omega)
  rw [Nat.zero_add] at hoff
  obtain ⟨htoNat, haligned⟩ := hoff
  refine ⟨htoNat, haligned, ?_⟩
  rw [windowReg_prm (by omega), htoNat, Nat.mul_div_cancel_left n (by omega)]

/-- Storing a word in a field replaces that word of the record alone. -/
theorem words_setWord (p : Prm) {n : Nat} (hn : n < 24) (v : BitVec 32) : (p.setWord n v).words = p.words.set n v := by
  interval_cases n <;> rfl

/-- A read of field `n` hands the host word `n` of the record (R82). -/
theorem exec_rd_prm {s : State} {n : Nat} (hn : n < 24) {v : BitVec 32} (hv : s.prm.words[n]? = some v) :
    exec (.rd (BitVec.ofNat 16 (4 * n))) s = .next { s with hostRdata := v } := by
  obtain ⟨-, haligned, hreg⟩ := prmOffset hn
  have hvalue : hostValue s (BitVec.ofNat 16 (4 * n)) = v := by
    rw [hostValue, hreg, WindowReg.value, List.getD_eq_getElem?_getD, hv]
    rfl
  rw [exec_rd haligned, hvalue]

/-- A write of field `n` is the guarded write of word `n` (R33, R82). -/
theorem exec_wr_prm (s : State) {n : Nat} (hn : n < 24) (v : BitVec 32) :
    exec (.wr (BitVec.ofNat 16 (4 * n)) v) s = .next (hostWritePrm n v s) := by
  obtain ⟨-, haligned, hreg⟩ := prmOffset hn
  rw [exec_wr haligned, hostWrite, hreg]

theorem hostWritePrm_of_writable {s : State} (h : s.run.prmWritable = true) (n : Nat) (v : BitVec 32) :
    hostWritePrm n v s = s.setPrm (s.prm.setWord n v) := if_pos h

theorem hostWritePrm_of_not_writable {s : State} (h : s.run.prmWritable = false) (n : Nat) (v : BitVec 32) :
    hostWritePrm n v s = refusePrmWrite s := if_neg (by simp [h])

/-- Settles O12: STATE decides between the write of one word and the refusal, and a read never asks it. -/
theorem prmWriteStoresOrIsRefused : Obligations.PrmWriteStoresOrIsRefused := by
  intro n v s hn
  rw [exec_wr_prm s hn]
  refine ⟨fun hrun => ?_, fun hrun => ?_, ?_⟩
  · have hw : s.run.prmWritable = true := by rcases hrun with h | h <;> rw [h] <;> rfl
    exact ⟨s.prm.setWord n v, by rw [hostWritePrm_of_writable hw]; rfl, words_setWord s.prm hn v⟩
  · have hw : s.run.prmWritable = false := by rcases hrun with h | h <;> rw [h] <;> rfl
    rw [hostWritePrm_of_not_writable hw]
    rfl
  · obtain ⟨w, hword⟩ : ∃ w, s.prm.words[n]? = some w := ⟨_, List.getElem?_eq_getElem (l := s.prm.words) hn⟩
    exact ⟨w, hword, exec_rd_prm hn hword⟩

/-- Byte `4n + k` of a list of words is byte `k` of word `n` (20_memory.md R87). -/
theorem getElem?_flatMap_bytes32 : ∀ (words : List (BitVec 32)) (n : Nat) {k : Nat}, k < 4 →
    (words.flatMap bytes32)[4 * n + k]? = words[n]?.map (·.extractLsb' (8 * k) 8)
  | [], _, _, _ => rfl
  | w :: rest, 0, k, hk => by
    interval_cases k <;> rfl
  | w :: rest, n + 1, k, hk => by
    have hnext : 4 * (n + 1) + k = 4 * n + k + 4 := by omega
    rw [hnext]
    exact getElem?_flatMap_bytes32 rest n hk

/-- The record is 96 bytes (30_encoding.md R110). -/
theorem length_toBytes (p : Prm) : p.toBytes.length = 96 := rfl

/-- The record is read back from its bytes. -/
theorem ofBytes_toBytes (p : Prm) : Prm.ofBytes p.toBytes = some p := by
  rw [Prm.ofBytes, if_pos (length_toBytes p), Prm.toBytes, wordsOfBytes_bytes32, Option.map_some, setWords_words]

/-- Every 96 bytes are the bytes of a record (R111). -/
theorem exists_ofBytes {bytes : List Byte} (h : bytes.length = 96) :
    ∃ p, Prm.ofBytes bytes = some p ∧ p.toBytes = bytes := by
  obtain ⟨words, hread, hlength, hbytes⟩ := bytes32_wordsOfBytes 24 bytes h
  refine ⟨Prm.zero.setWords 0 words, ?_, ?_⟩
  · rw [Prm.ofBytes, if_pos h, hread, Option.map_some]
  · rw [Prm.toBytes, words_setWords Prm.zero words hlength, hbytes]

/-- The offsets of the fields, each with its word: the table of R31. -/
def prmLayout (p : Prm) : List (BitVec 16 × BitVec 32) :=
  p.words.zipIdx.map fun (v, n) => (BitVec.ofNat 16 (4 * n), v)

theorem mem_prmLayout {p : Prm} {off : BitVec 16} {v : BitVec 32} (h : (off, v) ∈ prmLayout p) :
    ∃ n, n < 24 ∧ off = BitVec.ofNat 16 (4 * n) ∧ p.words[n]? = some v := by
  obtain ⟨⟨w, n⟩, hmem, heq⟩ := List.mem_map.mp h
  obtain ⟨rfl, rfl⟩ := Prod.mk.inj heq
  have hword : p.words[n]? = some w := List.mem_zipIdx_iff_getElem?.mp hmem
  exact ⟨n, (List.getElem?_eq_some_iff.mp hword).1, rfl, hword⟩

/-- Settles O15: the table of R31 is the list of words with their indices, and a list of words is its bytes. -/
theorem parameterLayout : Obligations.ParameterLayout := by
  refine fun s => ⟨fun off v h => ?_, length_toBytes s.prm, ofBytes_toBytes s.prm, fun bytes => ?_⟩
  · obtain ⟨n, hn, rfl, hword⟩ := mem_prmLayout (p := s.prm) h
    refine ⟨exec_rd_prm hn hword, fun k hk => ?_⟩
    rw [(prmOffset hn).1, Prm.toBytes, getElem?_flatMap_bytes32 _ n hk, hword, Option.map_some]
  · split_ifs with h
    · exact exists_ofBytes h
    · exact if_neg h

/-! ## STATUS -/

/-- The bits of STATUS's fields, joined: those of STATE, the one-bit fields from bit 2 on, and 0 above them. -/
theorem getLsbD_statusFields (wErr cmdErr termCap termFloor termEnv gen : Bool) (code : BitVec 2) (i : Nat) :
    (0#22 ++ BitVec.ofBool wErr ++ BitVec.ofBool cmdErr ++ 0#1 ++ BitVec.ofBool termCap ++ BitVec.ofBool termFloor ++
      BitVec.ofBool termEnv ++ 0#1 ++ BitVec.ofBool gen ++ code).getLsbD i =
    if i < 2 then code.getLsbD i
    else [gen, false, termEnv, termFloor, termCap, false, cmdErr, wErr].getD (i - 2) false := by
  simp only [BitVec.getLsbD_append]
  by_cases h : i < 10
  · interval_cases i <;> simp
  · rw [List.getD_eq_default _ _ (by simp only [List.length_cons, List.length_nil]; omega)]
    iterate 9 rw [if_neg (by omega)]
    rw [if_neg (by omega), BitVec.getLsbD_zero]

theorem getLsbD_statusWord (s : State) (i : Nat) : (statusWord s).getLsbD i = if i < 2 then s.run.code.getLsbD i else
    [s.syn.gen, false, s.termEnv, s.termFloor, s.termCap, false, s.cmdErr, s.wErr].getD (i - 2) false :=
  getLsbD_statusFields s.wErr s.cmdErr s.termCap s.termFloor s.termEnv s.syn.gen s.run.code i

theorem statusWord_state (s : State) : (statusWord s).extractLsb' 0 2 = s.run.code := by
  apply BitVec.eq_of_getLsbD_eq
  intro i hi
  rw [BitVec.getLsbD_extractLsb', getLsbD_statusWord, Nat.zero_add, if_pos hi, decide_eq_true hi, Bool.true_and]

theorem statusWord_above (s : State) : (statusWord s).extractLsb' 10 22 = 0#22 := by
  apply BitVec.eq_of_getLsbD_eq
  intro i hi
  rw [BitVec.getLsbD_extractLsb', getLsbD_statusWord, if_neg (by omega), List.getD_eq_default _ _ (by
    simp only [List.length_cons, List.length_nil]; omega), Bool.and_false, BitVec.getLsbD_zero]

/-- Settles O17: each offset holds its register, and STATUS the word of its fields. -/
theorem statusAndConstantsRead : Obligations.StatusAndConstantsRead := by
  intro s
  have hbit := getLsbD_statusWord s
  refine ⟨⟨statusWord s, exec_rd rfl s, ?_, hbit 2, hbit 3, hbit 4, hbit 5, hbit 6, hbit 7, hbit 8, hbit 9,
    statusWord_above s⟩, exec_rd rfl s, exec_rd rfl s, exec_rd rfl s, exec_rd rfl s, exec_rd rfl s, exec_rd rfl s⟩
  rw [statusWord_state]
  cases s.run <;> rfl

end Sys2Proof.Machine
end

section
/-! PROOFS. The two error bits (10_state.md R36): the engine never touches them, each command and each host access says
what it does to them. -/

namespace Sys2Proof.Machine

/-! ## What the engine executes -/

/-- A micro-operation, and a waveform case alone, always has a next state, and leaves the control part as it is. -/
theorem exec_engine {i : Instr} (h : i.format = .uop ∨ i.format = .wavesel) :
    ∃ f, Uncontrolled f ∧ ∀ s, exec i s = .next (f s) := by
  cases i with
  | idle => exact ⟨id, fun _ _ => rfl, fun _ => rfl⟩
  | suReseed => exact ⟨_, suReseed_uncontrolled, fun _ => rfl⟩
  | suClamp => exact ⟨_, suClamp_uncontrolled, fun _ => rfl⟩
  | suClear => exact ⟨_, suClear_uncontrolled, fun _ => rfl⟩
  | suPeriod => exact ⟨_, suPeriod_uncontrolled _, fun _ => rfl⟩
  | suSlide => exact ⟨_, suSlide_uncontrolled _, fun _ => rfl⟩
  | suArp => exact ⟨_, suArp_uncontrolled _, fun _ => rfl⟩
  | suDuty => exact ⟨_, suDuty_uncontrolled _, fun _ => rfl⟩
  | suFilter => exact ⟨_, suFilter_uncontrolled _, fun _ => rfl⟩
  | suVibrato => exact ⟨_, suVibrato_uncontrolled _, fun _ => rfl⟩
  | suEnvlen => exact ⟨_, suEnvlen_uncontrolled _, fun _ => rfl⟩
  | suPhaser => exact ⟨_, suPhaser_uncontrolled _, fun _ => rfl⟩
  | suRepeat => exact ⟨_, suRepeat_uncontrolled _, fun _ => rfl⟩
  | suNoise => exact ⟨_, suNoise_uncontrolled _, fun _ => rfl⟩
  | psRepeat => exact ⟨_, psRepeat_uncontrolled _, fun _ => rfl⟩
  | psArp => exact ⟨_, psArp_uncontrolled _, fun _ => rfl⟩
  | psSlide => exact ⟨_, psSlide_uncontrolled _, fun _ => rfl⟩
  | psVibrato => exact ⟨_, psVibrato_uncontrolled _, fun _ => rfl⟩
  | psPeriod => exact ⟨_, psPeriod_uncontrolled _, fun _ => rfl⟩
  | psDuty => exact ⟨_, psDuty_uncontrolled _, fun _ => rfl⟩
  | psEnv => exact ⟨_, psEnv_uncontrolled _, fun _ => rfl⟩
  | psPhaserTap => exact ⟨_, psPhaserTap_uncontrolled _, fun _ => rfl⟩
  | psHpSweep => exact ⟨_, psHpSweep_uncontrolled _, fun _ => rfl⟩
  | psSsclr => exact ⟨_, psSsclr_uncontrolled, fun _ => rfl⟩
  | ssPhase => exact ⟨_, ssPhase_uncontrolled _, fun _ => rfl⟩
  | ssWave => exact ⟨_, ssWave_uncontrolled _, fun _ => rfl⟩
  | ssLpf => exact ⟨_, ssLpf_uncontrolled _, fun _ => rfl⟩
  | ssHpf => exact ⟨_, ssHpf_uncontrolled _, fun _ => rfl⟩
  | ssPhaser => exact ⟨_, ssPhaser_uncontrolled _, fun _ => rfl⟩
  | ssAcc => exact ⟨_, ssAcc_uncontrolled _, fun _ => rfl⟩
  | poOut => exact ⟨_, poOut_uncontrolled _, fun _ => rfl⟩
  | waveSquare => exact ⟨waveSquare specParams, fun _ _ => rfl, fun _ => rfl⟩
  | waveSawtooth => exact ⟨waveSawtooth specParams, fun _ _ => rfl, fun _ => rfl⟩
  | waveSine => exact ⟨waveSine specParams, fun _ _ => rfl, fun _ => rfl⟩
  | waveNoise => exact ⟨waveNoise, fun _ _ => rfl, fun _ => rfl⟩
  | waveOther _ => exact ⟨waveOther, fun _ _ => rfl, fun _ => rfl⟩
  | _ => rcases h with h | h <;> exact nomatch h

/-- An instruction of the command format is the command of some word. -/
theorem exists_decodeCmd {i : Instr} (h : i.format = .cmdw) : ∃ v, decodeCmd v = i := by
  cases i with
  | nop => exact ⟨0x0#32, rfl⟩
  | setup => exact ⟨0x1#32, rfl⟩
  | step => exact ⟨0x2#32, rfl⟩
  | run => exact ⟨0x3#32, rfl⟩
  | abort => exact ⟨0x4#32, rfl⟩
  | clrerr => exact ⟨0x5#32, rfl⟩
  | reserved6 => exact ⟨0x6#32, rfl⟩
  | reserved7 => exact ⟨0x7#32, rfl⟩
  | reserved8 => exact ⟨0x8#32, rfl⟩
  | reserved9 => exact ⟨0x9#32, rfl⟩
  | reservedA => exact ⟨0xA#32, rfl⟩
  | reservedB => exact ⟨0xB#32, rfl⟩
  | reservedC => exact ⟨0xC#32, rfl⟩
  | reservedD => exact ⟨0xD#32, rfl⟩
  | reservedE => exact ⟨0xE#32, rfl⟩
  | reservedF => exact ⟨0xF#32, rfl⟩
  | _ => exact absurd h nofun

/-! ## The error bits -/

/-- Both error bits of `t` are those of `s`. -/
def SameErrors (s t : State) : Prop := t.cmdErr = s.cmdErr ∧ t.wErr = s.wErr

theorem SameErrors.trans {s t u : State} (h : SameErrors s t) (h' : SameErrors t u) : SameErrors s u :=
  ⟨h'.1.trans h.1, h'.2.trans h.2⟩

theorem Uncontrolled.sameErrors {f : State → State} (hf : Uncontrolled f) (s : State) : SameErrors s (f s) := by
  rw [hf.keeps s]
  exact ⟨rfl, rfl⟩

theorem setup_sameErrors (P : Params) (s : State) : SameErrors s (endSetup (performSeq (setupSeq P) s)) := by
  rw [performSeq_eq_plain (setupSeq_uncontrolled P)]
  exact ⟨rfl, rfl⟩

theorem endSample_sameErrors (s : State) : SameErrors s (endSample s) := by
  unfold endSample
  split_ifs <;> exact ⟨rfl, rfl⟩

theorem outerSample_sameErrors (P : Params) (s : State) : SameErrors s (outerSample P s) := by
  rw [outerSample_eq_plain]
  generalize plainSample P s = u
  exact ⟨rfl, rfl⟩

theorem sample_sameErrors (P : Params) (s : State) : SameErrors s (endSample (outerSample P s)) :=
  (outerSample_sameErrors P s).trans (endSample_sameErrors _)

/-- A command but CLRERR keeps both error bits or raises CMDERR alone. -/
theorem command_errors (P : Params) (v : BitVec 32) (s : State) :
    decodeCmd v = .clrerr ∧ command P v s = { s with cmdErr := false, wErr := false } ∨
      SameErrors s (command P v s) ∨ (command P v s).cmdErr = true ∧ (command P v s).wErr = s.wErr := by
  rcases command_cases P v s with h | h | ⟨-, h⟩ | ⟨-, h⟩ | ⟨-, h⟩ | h | h
  · rw [h]; exact .inr (.inl ⟨rfl, rfl⟩)
  · rw [h]; exact .inr (.inr ⟨rfl, rfl⟩)
  · rw [h]; exact .inr (.inl (setup_sameErrors P s))
  · rw [h]; exact .inr (.inl (sample_sameErrors P s))
  · rw [h]; exact .inr (.inl ⟨rfl, rfl⟩)
  · rw [h]; exact .inr (.inl ⟨rfl, rfl⟩)
  · exact .inl h

/-- A PRM write keeps both error bits or raises WERR alone. -/
theorem hostWritePrm_errors (n : Nat) (v : BitVec 32) (s : State) :
    (hostWritePrm n v s).cmdErr = s.cmdErr ∧ (s.wErr = true → (hostWritePrm n v s).wErr = true) := by
  unfold hostWritePrm
  split_ifs
  · exact ⟨rfl, id⟩
  · exact ⟨rfl, fun _ => rfl⟩

/-- An aligned offset of CTRL is 0x060. -/
theorem eq_of_windowReg_ctrl {off : BitVec 16} (ha : alignedOffset off = true) (h : windowReg off = .ctrl) :
    off = 0x060#16 := by
  have hmod := alignedOffset_mod ha
  have hlow : ¬off.toNat < 0x060 := fun hlt => by rw [windowReg_prm hlt] at h; exact nomatch h
  have hhigh : ¬0x064 ≤ off.toNat := fun hle => (windowReg_above hle).2 h
  apply BitVec.eq_of_toNat_eq
  show off.toNat = 0x060
  omega

/-- The offset of a PRM field lies below CTRL. -/
theorem lt_of_windowReg_prm {off : BitVec 16} {n : Nat} (h : windowReg off = .prm n) : off.toNat < 0x060 := by
  by_contra hle
  by_cases hctrl : off.toNat < 0x064
  · unfold windowReg at h
    dsimp only at h
    rw [if_neg hle, if_pos hctrl] at h
    exact nomatch h
  · exact (windowReg_above (not_lt.mp hctrl)).1 n h

/-- What a write to CTRL, or the command it names, does to the error bits. -/
theorem command_sticky (P : Params) (v : BitVec 32) (s : State) :
    (decodeCmd v = .clrerr ∨ (s.cmdErr = true → (command P v s).cmdErr = true) ∧
      (s.wErr = true → (command P v s).wErr = true)) ∧
    ((command P v s).wErr = true → s.wErr = true) := by
  rcases command_errors P v s with ⟨hclr, h⟩ | ⟨hcmd, hw⟩ | ⟨hcmd, hw⟩
  · exact ⟨.inl hclr, fun hset => by rw [h] at hset; exact nomatch hset⟩
  · exact ⟨.inr ⟨hcmd.trans, hw.trans⟩, hw.symm.trans⟩
  · exact ⟨.inr ⟨fun _ => hcmd, hw.trans⟩, hw.symm.trans⟩

/-- An instruction of the engine, or a read, always has a next state, with the same error bits. -/
theorem exec_sameErrors {i : Instr} (hi : i.format = .uop ∨ i.format = .wavesel) {s t : State}
    (h : exec i s = .next t) : SameErrors s t := by
  obtain ⟨f, hf, hexec⟩ := exec_engine hi
  obtain rfl : f s = t := by injection (hexec s).symm.trans h
  exact hf.sameErrors s

/-- A write or read with a next state has an aligned offset. -/
theorem alignedOffset_of_exec {i : Instr} {off : BitVec 16} {s t : State} (hi : (∃ v, i = .wr off v) ∨ i = .rd off)
    (h : exec i s = .next t) : alignedOffset off = true := by
  by_contra ha
  rcases hi with ⟨v, rfl⟩ | rfl <;> exact nomatch (if_neg ha).symm.trans h

/-- What an aligned write does to the error bits: to CTRL what its command does, below CTRL it may raise WERR. -/
theorem hostWrite_errors (P : Params) {off : BitVec 16} (ha : alignedOffset off = true) (v : BitVec 32) (s : State) :
    off = 0x060#16 ∧ hostWrite P off v s = command P v s ∨
      (hostWrite P off v s).cmdErr = s.cmdErr ∧ (s.wErr = true → (hostWrite P off v s).wErr = true) ∧
        ((hostWrite P off v s).wErr = true → s.wErr = true ∨ off.toNat < 0x060) := by
  rcases hostWrite_cases P off v s with ⟨n, hreg, h⟩ | ⟨hreg, h⟩ | h
  · obtain ⟨hcmd, hw⟩ := hostWritePrm_errors n v s
    rw [h]
    exact .inr ⟨hcmd, hw, fun _ => .inr (lt_of_windowReg_prm hreg)⟩
  · exact .inl ⟨eq_of_windowReg_ctrl ha hreg, h⟩
  · rw [h]
    exact .inr ⟨rfl, id, .inl⟩

/-- Settles O46, by the format of the instruction, and for a write by the register its offset names. -/
theorem errorBitsAreSticky : Obligations.ErrorBitsAreSticky := by
  intro i s t h
  have of_same (hsame : SameErrors s t) {p q r r' : Prop} :
      (p ∨ q ∨ (s.cmdErr = true → t.cmdErr = true) ∧ (s.wErr = true → t.wErr = true)) ∧
        (t.cmdErr = true → s.cmdErr = true ∨ r) ∧ (t.wErr = true → s.wErr = true ∨ r') := by
    obtain ⟨hcmd, hw⟩ := hsame
    exact ⟨.inr (.inr ⟨hcmd.trans, hw.trans⟩), fun hset => .inl (hcmd.symm.trans hset),
      fun hset => .inl (hw.symm.trans hset)⟩
  cases hformat : i.format with
  | uop => exact of_same (exec_sameErrors (.inl hformat) h)
  | wavesel => exact of_same (exec_sameErrors (.inr hformat) h)
  | cmdw =>
    obtain ⟨v, rfl⟩ := exists_decodeCmd hformat
    obtain rfl : command specParams v s = t := by injection (exec_decodeCmd v s).symm.trans h
    obtain ⟨hsticky, hw⟩ := command_sticky specParams v s
    exact ⟨hsticky.imp_right .inr, fun _ => .inr (.inl rfl), fun hset => .inl (hw hset)⟩
  | txn =>
    cases i with
    | rd off =>
      have ha := alignedOffset_of_exec (.inr rfl) h
      obtain rfl : { s with hostRdata := hostValue s off } = t := by injection (exec_rd ha s).symm.trans h
      exact of_same ⟨rfl, rfl⟩
    | wr off v =>
      have ha := alignedOffset_of_exec (.inl ⟨v, rfl⟩) h
      obtain rfl : hostWrite specParams off v s = t := by injection (exec_wr ha v s).symm.trans h
      rcases hostWrite_errors specParams ha v s with ⟨rfl, hwrite⟩ | ⟨hcmd, hset, hraise⟩
      · obtain ⟨hsticky, hw⟩ := command_sticky specParams v s
        rw [hwrite]
        refine ⟨?_, fun _ => .inr (.inr ⟨v, rfl⟩), fun hset => .inl (hw hset)⟩
        exact hsticky.elim (fun hclr => .inr (.inl ⟨v, rfl, hclr⟩)) fun hkeep => .inr (.inr hkeep)
      · exact ⟨.inr (.inr ⟨hcmd.trans, hset⟩), fun hset => .inl (hcmd.symm.trans hset),
          fun hset => (hraise hset).imp_right fun hlow => ⟨off, v, rfl, hlow⟩⟩
    | _ => exact nomatch hformat

end Sys2Proof.Machine
end

section
/-! PROOFS. The invariant of the engine: `EngineInv u s` is what it relies on when the micro-operation `u` comes next, or
between samples, where `u` is 0x00. It says nothing of the control part of the state, so that a sample under RUN, performed
step by step, and one under STEP, performed whole, keep it alike. -/

namespace Sys2Proof.Machine

/-- The clauses of `Inv` for registers, memories and events at the micro-operation `u`, or between samples. Inside a sample,
and before one that may follow, SAMPLE_COUNT is below CAPACITY; wherever `S.gen` is 0 there is a cause. -/
structure EngineInv (u : BitVec 8) (s : State) : Prop where
  mem_wf : s.mem.wf = true
  mem_window : ∀ c ∈ s.mem, inMemory c.1
  noise_unit : ∀ j, j < noiseLen → inUnit (ntRead s.mem j) = true
  count_le : s.sampleCount.toNat ≤ 441000
  count_lt : s.syn.gen = true ∨ (0x20#8).ule u = true → s.sampleCount.toNat < 441000
  gen_term : s.syn.gen = true → s.termEnv = false ∧ s.termFloor = false ∧ s.termCap = false
  term_cause : s.syn.gen = false → s.termEnv = true ∨ s.termFloor = true ∨ s.termCap = true
  stage_le : s.syn.envStage.toNat ≤ 3
  stage_gen : s.syn.gen = true → s.syn.envStage.toNat ≤ 2
  stage_env : (0x20#8).ule u = true → u.ule 0x26#8 = true → s.syn.envStage.toNat ≤ 2
  ipp_lt : s.syn.ipp.toNat < 1024
  phase_bound : s.syn.phase.toNat < 2 ^ 31 - 1
  period_floor : (0x25#8).ule u = true → 8 ≤ s.syn.period.toInt
  phase_lt : (0x31#8).ule u = true → s.syn.phase.toInt < s.syn.period.toInt
  tap_range : (0x28#8).ule u = true → s.syn.iphase.toNat < 1024 ∨ s.syn.iphase = 0x80000000#32
  rep_counted : counted s.syn.repTime (s.setUpc u) 0x20#8
  arp_counted : counted s.syn.arpTime (s.setUpc u) 0x21#8
  env_counted : counted s.syn.envTime (s.setUpc u) 0x26#8
  emitted_unit : ∀ e ∈ s.emitted, unitOrNan e.value
  emitted_index : (s.emitted.take s.sampleCount.toNat).map Emission.index =
    ((List.range s.sampleCount.toNat).map (BitVec.ofNat 32)).reverse
  last_out : s.sampleCount ≠ 0#32 → s.emitted.head?.map Emission.value = some s.sampleOut

/-- The micro-operation `f` takes the invariant from `u`, its own id, to `v`, the next one. A micro-operation's proof names
the clauses it has to establish; every other clause is the old one, its condition on the id being as true as before. -/
def Performs (u v : BitVec 8) (f : State → State) : Prop := ∀ s, EngineInv u s → EngineInv v (f s)

theorem performs_nil (u : BitVec 8) : Performs u u (plain []) := fun _ h => h

/-- Micro-operations performed one after another, each with its own id. -/
theorem Performs.cons {u v w : BitVec 8} {f : State → State} {rest : List MicroOp} (hf : Performs u v f)
    (hrest : Performs v w (plain rest)) : Performs u w (plain ((u, f) :: rest)) := fun s h => hrest _ (hf s h)

theorem EngineInv.control {u : BitVec 8} {s : State} (h : EngineInv u s) (c : State) :
    EngineInv u (State.control c s) :=
  { h with }

/-! ## The counters -/

/-- A counter whose micro-operation is still to come counts at most the samples made. -/
theorem counted_due {c : I32} {s : State} {u before : BitVec 8} (h : u.ule before = true) :
    counted c (s.setUpc u) before ↔ c.toNat ≤ s.sampleCount.toNat := by
  simp [counted, State.setUpc, h]

/-- A counter whose micro-operation is done may count this sample too. -/
theorem counted_done {c : I32} {s : State} {u before : BitVec 8} (h : u.ule before = false) :
    counted c (s.setUpc u) before ↔ c.toNat ≤ s.sampleCount.toNat + 1 := by
  simp [counted, State.setUpc, h]

theorem toNat_succ_le {c : I32} {n : Nat} (hc : c.toNat ≤ n) : (c + 1#32).toNat ≤ n + 1 := by
  rw [BitVec.toNat_add]
  exact (Nat.mod_le _ _).trans (Nat.add_le_add_right hc _)

/-! ## Frequency, envelope and sweeps: the micro-operations before the sub-samples -/

theorem psRepeat_performs (P : Params) : Performs 0x20#8 0x21#8 (psRepeat P) := by
  intro s h
  have hrep := (counted_due rfl).mp h.rep_counted
  unfold psRepeat
  dsimp only
  split_ifs
  · exact { h with
      rep_counted := (counted_done rfl).mpr (Nat.zero_le _)
      arp_counted := (counted_due rfl).mpr (Nat.zero_le _)
      period_floor := nofun
      phase_lt := nofun }
  · exact { h with rep_counted := (counted_done rfl).mpr (toNat_succ_le hrep) }

theorem psArp_performs (P : Params) : Performs 0x21#8 0x22#8 (psArp P) := by
  intro s h
  have hcount : counted (s.syn.arpTime + 1#32) (s.setUpc 0x22#8) 0x21#8 :=
    (counted_done rfl).mpr (toNat_succ_le ((counted_due rfl).mp h.arp_counted))
  unfold psArp
  dsimp only
  split_ifs <;> exact { h with arp_counted := hcount }

theorem psSlide_performs (P : Params) : Performs 0x22#8 0x23#8 (psSlide P) := by
  intro s h
  unfold psSlide
  dsimp only
  split_ifs
  · exact { h with
      count_lt := fun _ => h.count_lt (.inr rfl)
      gen_term := nofun
      term_cause := fun _ => .inr (.inl rfl)
      stage_gen := nofun }
  · exact { h with }
  · exact { h with }

theorem psVibrato_performs (P : Params) : Performs 0x23#8 0x24#8 (psVibrato P) := by
  intro s h
  unfold psVibrato
  dsimp only
  split_ifs <;> exact { h with }

theorem psPeriod_performs : Performs 0x24#8 0x25#8 (psPeriod specParams) := fun s h =>
  { h with
    period_floor := fun _ => floorPeriod_ge specParams (trunc32 specParams s.seq.rfperiod)
    phase_lt := nofun }

theorem psDuty_performs (P : Params) : Performs 0x25#8 0x26#8 (psDuty P) := fun _ h => { h with }

/-- A stage below the terminal one moves on by one. -/
theorem toNat_nextStage {stage : I32} (h : stage.toNat ≤ 2) : (stage + 1#32).toNat = stage.toNat + 1 := by
  rw [BitVec.toNat_add]
  exact Nat.mod_eq_of_lt (by show stage.toNat + 1 < 2 ^ 32; omega)

theorem envAdvance_performs : Performs 0x26#8 0x27#8 envAdvance := by
  intro s h
  have hstage : s.syn.envStage.toNat ≤ 2 := h.stage_env rfl rfl
  have hnext := toNat_nextStage hstage
  have hle : (s.syn.envStage + 1#32).toNat ≤ 3 := by omega
  have hzero : counted 0#32 (s.setUpc 0x27#8) 0x26#8 := (counted_done rfl).mpr (Nat.zero_le _)
  have hcount : counted (s.syn.envTime + 1#32) (s.setUpc 0x27#8) 0x26#8 :=
    (counted_done rfl).mpr (toNat_succ_le ((counted_due rfl).mp h.env_counted))
  cases hlen : (s.syn.envLen s.syn.envStage).slt (s.syn.envTime + 1#32) with
  | false =>
    rw [envAdvance_stay hlen]
    exact { h with env_counted := hcount, stage_env := nofun }
  | true =>
    by_cases hend : s.syn.envStage + 1#32 = 3#32
    · rw [envAdvance_end hlen hend]
      exact { h with
        count_lt := fun _ => h.count_lt (.inr rfl)
        gen_term := nofun
        term_cause := fun _ => .inl rfl
        stage_le := hle
        stage_gen := nofun
        stage_env := nofun
        env_counted := hzero }
    · rw [envAdvance_next hlen hend]
      have hne : (s.syn.envStage + 1#32).toNat ≠ 3 := fun he => hend (BitVec.eq_of_toNat_eq he)
      exact { h with
        stage_le := hle
        stage_gen := fun _ => by show (s.syn.envStage + 1#32).toNat ≤ 2; omega
        stage_env := nofun
        env_counted := hzero }

theorem psEnv_performs (P : Params) : Performs 0x26#8 0x27#8 (psEnv P) := by
  intro s h
  have hadvance := envAdvance_performs s h
  unfold psEnv
  dsimp only
  generalize envAdvance s = t at hadvance
  exact { hadvance with }

/-- The magnitude of a number is not below 0, but for the number that has none (00_scope.md R12). -/
theorem absI32_range (v : I32) : 0 ≤ (absI32 v).toInt ∨ absI32 v = 0x80000000#32 := by
  unfold absI32
  split_ifs with h
  · by_cases hmin : v = 0x80000000#32
    · exact .inr (by rw [hmin]; rfl)
    · left
      rw [BitVec.slt_iff_toInt_lt] at h
      rw [BitVec.toInt_neg_of_ne_intMin hmin]
      have : (0#32).toInt = 0 := rfl
      omega
  · rw [BitVec.slt_iff_toInt_lt] at h
    exact .inl (not_lt.mp h)

/-- The tap lies in 0..1023, or is the one that CVT_OOR gives (R250). -/
theorem tapOf_range (x : F32) : (tapOf specParams x).toNat < 1024 ∨ tapOf specParams x = 0x80000000#32 := by
  unfold tapOf
  dsimp only
  have habs := absI32_range (trunc32 specParams x)
  generalize absI32 (trunc32 specParams x) = tap at habs
  split_ifs with h
  · exact .inl (by decide)
  · refine habs.imp_left fun hnonneg => ?_
    rw [BitVec.slt_iff_toInt_lt] at h
    have hmax : specParams.K.tapMax.toInt = 1023 := rfl
    rw [hmax, BitVec.toInt_eq_toNat_cond] at h
    rw [BitVec.toInt_eq_toNat_cond] at hnonneg
    split_ifs at h hnonneg <;> omega

theorem psPhaserTap_performs : Performs 0x27#8 0x28#8 (psPhaserTap specParams) := fun s h =>
  { h with tap_range := fun _ => tapOf_range (add32 specParams s.syn.fphase s.syn.fdphase) }

theorem psHpSweep_performs (P : Params) : Performs 0x28#8 0x29#8 (psHpSweep P) := by
  intro s h
  unfold psHpSweep
  split_ifs <;> exact { h with }

theorem psSsclr_performs : Performs 0x29#8 0x30#8 psSsclr := fun _ h => { h with }

/-- Steps 1 to 9 and the accumulator clear of OUTER_SAMPLE. -/
theorem sampleSeq_performs : Performs 0x20#8 0x30#8 (plain (sampleSeq specParams)) :=
  (psRepeat_performs _).cons <| (psArp_performs _).cons <| (psSlide_performs _).cons <| (psVibrato_performs _).cons <|
    psPeriod_performs.cons <| (psDuty_performs _).cons <| (psEnv_performs _).cons <| psPhaserTap_performs.cons <|
    (psHpSweep_performs _).cons <| psSsclr_performs.cons <| performs_nil _

/-! ## The sub-samples -/

/-- The noise fill lists bytes of NT alone, and NT then holds draws. -/
theorem fillNoise_memory (P : Params) {s : State} (hwf : s.mem.wf = true) (hwindow : ∀ c ∈ s.mem, inMemory c.1) :
    (fillNoise P s).mem.wf = true ∧ (∀ c ∈ (fillNoise P s).mem, inMemory c.1) ∧
      ∀ j, j < noiseLen → inUnit (ntRead (fillNoise P s).mem j) = true := by
  obtain ⟨-, hwf', -, hdraw⟩ := fillNoise_spec P hwf
  refine ⟨hwf', fun c hc => ?_, fun j hj => ?_⟩
  · rcases mem_drawRange P noiseLen 0 s hc with hold | ⟨hlow, hhigh⟩
    · exact hwindow c hold
    · exact .inr ⟨hlow, hhigh⟩
  · rw [hdraw j hj]
    exact inUnit_unitDraw _

theorem EngineInv.fillNoise {u : BitVec 8} {s : State} (h : EngineInv u s) (P : Params) :
    EngineInv u (fillNoise P s) := by
  obtain ⟨hwf, hwindow, hunit⟩ := fillNoise_memory P h.mem_wf h.mem_window
  have heq := (fillNoise_spec P h.mem_wf).1
  generalize Machine.fillNoise P s = t at *
  rw [heq]
  exact { h with mem_wf := hwf, mem_window := hwindow, noise_unit := hunit }

/-- A number whose sign bit is 0 is its pattern. -/
theorem toInt_of_lt {x : I32} (h : x.toNat < 2 ^ 31) : x.toInt = x.toNat :=
  BitVec.toInt_eq_toNat_of_lt (by omega)

theorem toNat_lt_of_toInt_pos {x : I32} (h : 0 < x.toInt) : x.toNat < 2 ^ 31 := by
  rw [BitVec.toInt_eq_toNat_cond] at h
  split_ifs at h <;> omega

/-- `a mod b` where 00_scope.md R12 defines it. -/
theorem modI32_toNat {a b : I32} (ha : a.toNat < 2 ^ 31) (hb : 0 < b.toInt) :
    (modI32 a b).toNat = a.toNat % b.toNat := by
  have hcond : (!a.slt 0#32 && (0#32).slt b) = true := by
    have hzero : (0#32).toInt = 0 := rfl
    rw [Bool.and_eq_true, Bool.not_eq_true', BitVec.slt_eq_decide, BitVec.slt_eq_decide, hzero, toInt_of_lt ha]
    exact ⟨decide_eq_false (by omega), decide_eq_true hb⟩
  have hlt : a.toNat % b.toNat < 2 ^ 32 := (Nat.mod_le _ _).trans_lt a.isLt
  rw [modI32, if_pos hcond, BitVec.toNat_ofNat, Nat.mod_eq_of_lt hlt]

/-- The phase after SS_PHASE lies inside the period, whether it wrapped or not (R260, R261). -/
theorem nextPhase_range {phase period : I32} (hphase : phase.toNat < 2 ^ 31 - 1) (hperiod : 8 ≤ period.toInt) (t : I32)
    (ht : t = if period.sle (phase + 1#32) then modI32 (phase + 1#32) period else phase + 1#32) :
    t.toNat < 2 ^ 31 - 1 ∧ t.toInt < period.toInt := by
  have hsucc : (phase + 1#32).toNat = phase.toNat + 1 := by
    rw [BitVec.toNat_add]
    exact Nat.mod_eq_of_lt (by show phase.toNat + 1 < 2 ^ 32; omega)
  have hlt := toNat_lt_of_toInt_pos (x := period) (by omega)
  have hpos := toInt_of_lt hlt
  have hbelow : t.toNat < period.toNat := by
    subst ht
    split_ifs with h
    · rw [modI32_toNat (by omega) (by omega)]
      exact Nat.mod_lt _ (by omega)
    · rw [BitVec.sle_iff_toInt_le, toInt_of_lt (x := phase + 1#32) (by omega)] at h
      omega
  exact ⟨by omega, by rw [toInt_of_lt (x := t) (by omega)]; omega⟩

/-- SS_PHASE but for the refill: the phase alone changes. -/
theorem EngineInv.setPhase {s : State} (h : EngineInv 0x30#8 s) {t : I32}
    (ht : t = if s.syn.period.sle (s.syn.phase + 1#32) then modI32 (s.syn.phase + 1#32) s.syn.period
      else s.syn.phase + 1#32) :
    EngineInv 0x31#8 (s.setSyn { s.syn with phase := t }) := by
  obtain ⟨hbound, hlt⟩ := nextPhase_range h.phase_bound (h.period_floor rfl) t ht
  exact { h with phase_bound := hbound, phase_lt := fun _ => hlt }

theorem ssPhase_performs (P : Params) : Performs 0x30#8 0x31#8 (ssPhase P) := by
  intro s h
  unfold ssPhase
  dsimp only
  split_ifs with hwrap
  · exact (h.setPhase (if_pos hwrap).symm).fillNoise P
  · exact h.setPhase (if_pos hwrap).symm
  · exact h.setPhase (if_neg hwrap).symm

theorem ssWave_performs (P : Params) : Performs 0x31#8 0x32#8 (ssWave P) := by
  intro s h
  rw [ssWave_eq]
  exact { h with }

theorem ssLpf_performs (P : Params) : Performs 0x32#8 0x33#8 (ssLpf P) := by
  intro s h
  unfold ssLpf Synth.lowPass
  dsimp only
  split_ifs <;> exact { h with }

theorem ssHpf_performs (P : Params) : Performs 0x33#8 0x34#8 (ssHpf P) := fun _ h => { h with }

/-- A store to the delay line lists bytes of DL alone. -/
theorem dlWrite_window {m : Memory} (h : ∀ c ∈ m, inMemory c.1) (i : I32) (v : F32) :
    ∀ c ∈ dlWrite m i v, inMemory c.1 := by
  intro c hc
  rcases Memory.mem_writeWord hc with hold | ⟨hlow, hhigh⟩
  · exact h c hold
  · have hslot := dlSlot_lt i
    unfold dlAddr at hlow hhigh
    exact .inl ⟨by omega, by omega⟩

theorem ssPhaser_performs (P : Params) : Performs 0x34#8 0x35#8 (ssPhaser P) := by
  intro s h
  rw [ssPhaser_eq]
  exact { h with
    mem_wf := dlWrite_wf h.mem_wf
    mem_window := dlWrite_window h.mem_window _ _
    noise_unit := fun j hj => by rw [ntRead_dlWrite h.mem_wf]; exact h.noise_unit j hj
    ipp_lt := and_1023_lt _ }

theorem ssAcc_performs (P : Params) : Performs 0x35#8 0x40#8 (ssAcc P) := fun _ h => { h with }

/-- Another sub-sample may come instead of the output. -/
theorem EngineInv.again {s : State} (h : EngineInv 0x40#8 s) : EngineInv 0x30#8 s :=
  { h with phase_lt := nofun }

/-- The body of a sub-sample. -/
theorem subSampleSeq_performs (P : Params) : Performs 0x30#8 0x40#8 (plain (subSampleSeq P)) :=
  (ssPhase_performs P).cons <| (ssWave_performs P).cons <| (ssLpf_performs P).cons <| (ssHpf_performs P).cons <|
    (ssPhaser_performs P).cons <| (ssAcc_performs P).cons <| performs_nil _

/-! ## The output -/

/-- A number that is neither above 1 nor below -1 has a magnitude of at most 1. -/
theorem inUnit_of_not_lt {v : F32} (hnan : isNan32 v = false) (hhigh : lt32 one32 v = false)
    (hlow : lt32 v negOne32 = false) : inUnit v = true := by
  have hone : binary32.key one32.toNat = 0x3F800000 := by decide +kernel
  have hnegOne : binary32.key negOne32.toNat = -0x3F800000 := by decide +kernel
  have hnum : isNan32 one32 = false ∧ isNan32 negOne32 = false := by decide +kernel
  unfold isNan32 at hnan hnum
  unfold lt32 Fmt.lt at hhigh hlow
  rw [hnan, hnum.1, hone] at hhigh
  rw [hnan, hnum.2, hnegOne] at hlow
  simp only [Bool.not_false, Bool.and_self, Bool.true_and, decide_eq_false_iff_not, not_lt] at hhigh hlow
  unfold Fmt.key signed at hhigh hlow
  refine decide_eq_true ?_
  cases hneg : binary32.neg v.toNat with
  | false =>
    rw [hneg, cond_false] at hhigh
    omega
  | true =>
    rw [hneg, cond_true] at hlow
    omega

/-- The output clamp gives a NaN or a value in [-1, 1] (R301). -/
theorem clampOut_unitOrNan (v : F32) : unitOrNan (clampOut v) := by
  have hends : lt32 one32 negOne32 = false ∧ inUnit one32 = true ∧ inUnit negOne32 = true := by decide +kernel
  obtain ⟨hone, hunit, hnegUnit⟩ := hends
  unfold clampOut
  dsimp only
  by_cases hhigh : lt32 one32 v = true
  · rw [if_pos hhigh, if_neg (by rw [hone]; exact Bool.false_ne_true)]
    exact .inr hunit
  · rw [if_neg hhigh]
    split_ifs with hlow
    · exact .inr hnegUnit
    · cases hnan : isNan32 v with
      | true => exact .inl hnan
      | false => exact .inr (inUnit_of_not_lt hnan (Bool.not_eq_true _ ▸ hhigh) (Bool.not_eq_true _ ▸ hlow))

/-- SAMPLE_COUNT below CAPACITY does not wrap. -/
theorem toNat_count_succ {n : I32} (hn : n.toNat < 441000) : (n + 1#32).toNat = n.toNat + 1 := by
  rw [BitVec.toNat_add]
  exact Nat.mod_eq_of_lt (by show n.toNat + 1 < 2 ^ 32; omega)

/-- One event more, with SAMPLE_COUNT as its index (48_output.md R302). -/
theorem emitted_index_succ {l : List Emission} {n : I32} (hn : n.toNat < 441000) (v : F32)
    (h : (l.take n.toNat).map Emission.index = ((List.range n.toNat).map (BitVec.ofNat 32)).reverse) :
    (({ index := n, value := v } :: l).take (n + 1#32).toNat).map Emission.index =
      ((List.range (n + 1#32).toNat).map (BitVec.ofNat 32)).reverse := by
  rw [toNat_count_succ hn, List.take_succ_cons, List.map_cons, h, List.range_succ, List.map_append, List.reverse_append]
  simp

/-- A counter that has counted this sample counts at most the samples made, once this one is made. -/
theorem counted_restart {c : I32} {s t : State} {before : BitVec 8} (hcount : s.sampleCount.toNat < 441000)
    (ht : t.sampleCount = s.sampleCount + 1#32) (hdone : (0x40#8).ule before = false)
    (h : counted c (s.setUpc 0x40#8) before) : counted c (t.setUpc 0x00#8) before := by
  refine (counted_due (by simp [BitVec.ule])).mpr ?_
  rw [ht, toNat_count_succ hcount]
  exact (counted_done hdone).mp h

/-- PO_OUT ends the sample: every counter is again at most SAMPLE_COUNT, and reaching CAPACITY is a cause to stop. -/
theorem poOut_performs (P : Params) : Performs 0x40#8 0x00#8 (poOut P) := by
  intro s h
  have hcount := h.count_lt (.inr rfl)
  have hsucc := toNat_count_succ hcount
  have hcap : s.sampleCount + 1#32 = capacity ↔ s.sampleCount.toNat + 1 = 441000 := by
    rw [← hsucc]
    exact BitVec.toNat_inj.symm
  have hgen : (s.syn.gen && !decide (s.sampleCount + 1#32 = capacity)) = true ↔
      s.syn.gen = true ∧ s.sampleCount.toNat + 1 ≠ 441000 := by simp [hcap]
  rw [poOut_eq]
  exact { h with
    count_le := by show (s.sampleCount + 1#32).toNat ≤ 441000; omega
    count_lt := fun hgoes => by
      have hne := (hgen.mp (hgoes.resolve_right nofun)).2
      show (s.sampleCount + 1#32).toNat < 441000
      omega
    gen_term := fun hgoes => by
      obtain ⟨hg, hne⟩ := hgen.mp hgoes
      simpa [hcap, hne] using h.gen_term hg
    term_cause := fun hends => by
      rw [Bool.and_eq_false_iff, Bool.not_eq_false'] at hends
      rcases hends with hg | hend
      · exact (h.term_cause hg).imp_right (.imp_right fun hbit => by simp [hbit])
      · exact .inr (.inr (by simp only [hend, Bool.or_true]))
    stage_gen := fun hgoes => h.stage_gen (hgen.mp hgoes).1
    stage_env := nofun
    period_floor := nofun
    phase_lt := nofun
    tap_range := nofun
    rep_counted := counted_restart hcount rfl rfl h.rep_counted
    arp_counted := counted_restart hcount rfl rfl h.arp_counted
    env_counted := counted_restart hcount rfl rfl h.env_counted
    emitted_unit := List.forall_mem_cons.mpr ⟨clampOut_unitOrNan _, h.emitted_unit⟩
    emitted_index := emitted_index_succ hcount _ h.emitted_index
    last_out := fun _ => rfl }

/-! ## The whole sample -/

/-- OUTER_SAMPLE, performed whole. -/
theorem plainSample_performs : Performs 0x20#8 0x00#8 (plainSample specParams) := by
  intro s h
  have hsub := subSampleSeq_performs specParams
  have hagain : Performs 0x30#8 0x30#8 (plain (subSampleSeq specParams)) := fun t ht => (hsub t ht).again
  have hstart := sampleSeq_performs s h
  unfold plainSample
  generalize plain (sampleSeq specParams) s = t at hstart
  generalize plain (subSampleSeq specParams) = sub at hsub hagain
  exact poOut_performs _ _ <| hsub _ <| hagain _ <| hagain _ <| hagain _ <| hagain _ <| hagain _ <| hagain _ <|
    hagain _ hstart

/-- OUTER_SAMPLE, performed whole, with the loads of `upc` and `si`. -/
theorem outerSample_performs : Performs 0x20#8 0x00#8 (outerSample specParams) := by
  intro s h
  rw [outerSample_eq_plain]
  exact (plainSample_performs s h).control _

end Sys2Proof.Machine
end

section
/-! PROOFS. The invariant of the whole machine: what a step can be, said once, and that the engine's micro-operations, the
host's accesses, the commands and a power-on reset each keep it. -/

namespace Sys2Proof.Machine

/-! ## The ids of a sample -/

/-- The id that comes next in OUTER_SAMPLE, the last sub-sample's if there are several; 0x00 after PO_OUT. -/
def successor (u : BitVec 8) : BitVec 8 :=
  if u = 0x29#8 then 0x30#8 else if u = 0x35#8 then 0x40#8 else if u = 0x40#8 then 0x00#8 else u + 1#8

/-- The ids of a sample are not before its first, and the successor of one but PO_OUT's is another. -/
theorem sampleId_facts : ∀ u, isSampleId u = true → (0x20#8).ule u = true ∧
    (u ≠ 0x40#8 → isSampleId (successor u) = true) := by decide +kernel

/-! ## Between the invariant of the machine and that of the engine -/

theorem Inv.engineInv {s : State} (h : Inv s) (hrun : s.run = .ready ∨ s.run = .running) : EngineInv s.seq.upc s :=
  { h with
    count_lt := fun _ => h.count_lt hrun
    term_cause := fun hgen => by
      rcases hrun with hready | hrunning
      · rw [h.ready_gen hready] at hgen
        exact nomatch hgen
      · exact h.term_cause (.inl hrunning) hgen }

/-- Between samples: a run that goes on is generating, and one that has ended is not. -/
theorem EngineInv.inv_between {s : State} (h : EngineInv 0x00#8 s) (hupc : s.seq.upc = 0x00#8)
    (hgoes : s.run = .ready ∨ s.run = .running → s.syn.gen = true) (hdone : s.run = .done → s.syn.gen = false) :
    Inv s := by
  rw [← hupc] at h
  exact { h with
    count_lt := fun hrun => h.count_lt (.inl (hgoes hrun))
    upc_legal := .inl hupc
    ready_gen := fun hrun => hgoes (.inl hrun)
    running_gen := fun hrun _ => hgoes (.inr hrun)
    done_gen := hdone
    term_cause := fun _ => h.term_cause }

/-- Inside a sample of a running run. -/
theorem EngineInv.inv_inside {s : State} (h : EngineInv s.seq.upc s) (hrun : s.run = .running)
    (hid : isSampleId s.seq.upc = true) : Inv s :=
  { h with
    count_lt := fun _ => h.count_lt (.inr (sampleId_facts _ hid).1)
    upc_legal := .inr ⟨hrun, hid⟩
    ready_gen := fun hready => by rw [hrun] at hready; exact nomatch hready
    running_gen := fun _ hupc => by rw [hupc] at hid; exact nomatch hid
    done_gen := fun hdone => by rw [hrun] at hdone; exact nomatch hdone
    term_cause := fun _ => h.term_cause }

/-- A generating run may begin a sample. -/
theorem EngineInv.mayBegin {s : State} (h : EngineInv 0x00#8 s) (hgen : s.syn.gen = true) : EngineInv 0x20#8 s :=
  { h with
    count_lt := fun _ => h.count_lt (.inl hgen)
    stage_env := fun _ _ => h.stage_gen hgen }

/-- The end of a sample, under STEP and under RUN. -/
theorem EngineInv.endSample {s : State} (h : EngineInv 0x00#8 s) (hrun : s.run = .ready ∨ s.run = .running) :
    Inv (endSample s) := by
  unfold Machine.endSample
  split_ifs with hgen
  · have hend : EngineInv 0x00#8 (s.setUpc 0x00#8) := { h with }
    refine hend.inv_between rfl (fun _ => hgen) fun hdone => ?_
    rcases hrun with hr | hr <;> exact nomatch hr.symm.trans hdone
  · have hend : EngineInv 0x00#8 ((s.setRun .done).setUpc 0x00#8) := { h with }
    exact hend.inv_between rfl nofun fun _ => Bool.not_eq_true _ ▸ hgen

/-! ## The engine, one micro-operation at a time -/

/-- OUTER_SAMPLE's micro-operations, each once. -/
def microprogram : List MicroOp := sampleSeq specParams ++ subSampleSeq specParams ++ outputSeq specParams

theorem exists_microOp {u : BitVec 8} (h : isSampleId u = true) : ∃ f, (u, f) ∈ microprogram := by
  have hids : ∀ u, isSampleId u = true → u ∈ microprogram.map Prod.fst := by decide +kernel
  obtain ⟨⟨u', f⟩, hmem, rfl⟩ := List.mem_map.mp (hids u h)
  exact ⟨f, hmem⟩

/-- Every micro-operation of OUTER_SAMPLE takes the invariant to the next one. -/
theorem microprogram_performs : ∀ m ∈ microprogram, Performs m.1 (successor m.1) m.2 := by
  simp only [microprogram, sampleSeq, subSampleSeq, outputSeq, List.cons_append, List.nil_append, List.forall_mem_cons]
  exact ⟨psRepeat_performs _, psArp_performs _, psSlide_performs _, psVibrato_performs _, psPeriod_performs,
    psDuty_performs _, psEnv_performs _, psPhaserTap_performs, psHpSweep_performs _, psSsclr_performs,
    ssPhase_performs _, ssWave_performs _, ssLpf_performs _, ssHpf_performs _, ssPhaser_performs _, ssAcc_performs _,
    poOut_performs _, nofun⟩

/-- An id in `upc` is executed as the micro-operation of its row. -/
theorem microprogram_exec : ∀ m ∈ microprogram, ∃ i, decodeUop m.1 = .ok i ∧ ∀ s, exec i s = .next (m.2 s) := by
  simp only [microprogram, sampleSeq, subSampleSeq, outputSeq, List.cons_append, List.nil_append, List.forall_mem_cons]
  refine ⟨?_, ?_, ?_, ?_, ?_, ?_, ?_, ?_, ?_, ?_, ?_, ?_, ?_, ?_, ?_, ?_, ?_, nofun⟩ <;> exact ⟨_, rfl, fun _ => rfl⟩

theorem microprogram_uncontrolled : ∀ m ∈ microprogram, Uncontrolled m.2 := by
  unfold microprogram
  rw [List.forall_mem_append, List.forall_mem_append]
  exact ⟨⟨sampleSeq_uncontrolled _, subSampleSeq_uncontrolled _⟩,
    List.forall_mem_cons.mpr ⟨poOut_uncontrolled _, nofun⟩⟩

/-- In the midst of a sequence the sequencer moves to the next id. -/
theorem advance_of_inner {s : State} (h : s.seq.upc ∉ [0x00#8, 0x1C#8, 0x29#8, 0x35#8, 0x40#8]) :
    advance s = s.setUpc (s.seq.upc + 1#8) := by
  have hne : ∀ k ∈ [0x00#8, 0x1C#8, 0x29#8, 0x35#8, 0x40#8], s.seq.upc.toNat ≠ k.toNat :=
    fun k hk he => h (BitVec.eq_of_toNat_eq he ▸ hk)
  simp only [List.forall_mem_cons] at hne
  obtain ⟨h00, h1C, h29, h35, h40, -⟩ := hne
  unfold advance
  split
  · exact absurd ‹_› h00
  · exact absurd ‹_› h1C
  · exact absurd ‹_› h29
  · exact absurd ‹_› h35
  · exact absurd ‹_› h40
  · rfl

/-- Where the sequencer goes inside a sample: to its end, back for another sub-sample, or on to the successor. -/
theorem advance_cases {s : State} (h : isSampleId s.seq.upc = true) :
    s.seq.upc = 0x40#8 ∧ advance s = endSample s ∨
    s.seq.upc = 0x35#8 ∧ (∃ k, advance s = (s.setSi k).setUpc 0x30#8) ∨
    s.seq.upc ≠ 0x40#8 ∧ ∃ k, advance s = (s.setSi k).setUpc (successor s.seq.upc) := by
  by_cases hinner : s.seq.upc ∈ [0x00#8, 0x1C#8, 0x29#8, 0x35#8, 0x40#8]
  · simp only [List.mem_cons, List.not_mem_nil, or_false] at hinner
    unfold advance
    rcases hinner with hu | hu | hu | hu | hu <;> rw [hu] at h ⊢
    · exact nomatch h
    · exact nomatch h
    · exact .inr (.inr ⟨by decide, 0#3, rfl⟩)
    · by_cases hsi : s.seq.si = 7#3
      · exact .inr (.inr ⟨by decide, s.seq.si, if_pos hsi⟩)
      · exact .inr (.inl ⟨rfl, s.seq.si + 1#3, if_neg hsi⟩)
    · exact .inl ⟨rfl, rfl⟩
  · refine .inr (.inr ⟨fun hu => hinner (by simp [hu]), s.seq.si, ?_⟩)
    rw [advance_of_inner hinner]
    simp only [List.mem_cons, not_or] at hinner
    obtain ⟨-, -, h29, h35, h40, -⟩ := hinner
    rw [successor, if_neg h29, if_neg h35, if_neg h40]
    rfl

/-- A sample goes on at another of its ids. -/
theorem EngineInv.inv_goesOn {u : BitVec 8} {s : State} (h : EngineInv u s) (hrun : s.run = .running)
    (hid : isSampleId u = true) (k : BitVec 3) : Inv ((s.setSi k).setUpc u) :=
  have hnext : EngineInv u ((s.setSi k).setUpc u) := { h with }
  hnext.inv_inside hrun hid

/-- One micro-operation of a sample under RUN. -/
theorem inv_step_engine {s t : State} {i : Instr} (h : Inv s) (hupc : s.seq.upc ≠ 0x00#8)
    (hdec : decodeUop s.seq.upc = .ok i) (ht : complete (exec i s) = .next t) : Inv t := by
  obtain ⟨hrun, hid⟩ := h.upc_legal.resolve_left hupc
  obtain ⟨f, hmem⟩ := exists_microOp hid
  obtain ⟨i', hdec', hexec⟩ := microprogram_exec _ hmem
  obtain rfl : i' = i := by injection hdec'.symm.trans hdec
  obtain rfl : advance (f s) = t := by
    rw [hexec] at ht
    injection ht
  have hnext : EngineInv (successor s.seq.upc) (f s) := microprogram_performs _ hmem s (h.engineInv (.inr hrun))
  have hkeeps : (f s).run = .running ∧ (f s).seq.upc = s.seq.upc := by
    have hf : Uncontrolled f := microprogram_uncontrolled _ hmem
    rw [hf.keeps s]
    exact ⟨hrun, rfl⟩
  obtain ⟨hrun', hupc'⟩ := hkeeps
  rw [← hupc'] at hid hnext
  rcases advance_cases hid with ⟨hu, hadv⟩ | ⟨hu, k, hadv⟩ | ⟨hu, k, hadv⟩
  · rw [hadv]
    rw [hu] at hnext
    exact hnext.endSample (.inr hrun')
  · rw [hadv]
    rw [hu] at hnext
    exact EngineInv.inv_goesOn (EngineInv.again hnext) hrun' rfl k
  · rw [hadv]
    exact hnext.inv_goesOn hrun' ((sampleId_facts _ hid).2 hu) k

/-- An outer sample begins under RUN: the first micro-operation is performed from the boundary. -/
theorem Inv.startSample {s : State} (h : Inv s) (hupc : s.seq.upc = 0x00#8) (hrun : s.run = .running) :
    Inv (s.setUpc 0x20#8) := by
  have hbetween := h.engineInv (.inr hrun)
  rw [hupc] at hbetween
  have hfirst : EngineInv 0x20#8 (s.setUpc 0x20#8) := { hbetween.mayBegin (h.running_gen hrun hupc) with }
  exact hfirst.inv_inside hrun rfl

/-! ## SETUP -/

/-- The derivations of SETUP_SEQ. -/
def deriveSeq (P : Params) : List MicroOp :=
  [(0x13#8, suPeriod P), (0x14#8, suSlide P), (0x15#8, suArp P), (0x16#8, suDuty P), (0x17#8, suFilter P),
    (0x18#8, suVibrato P), (0x19#8, suEnvlen P), (0x1A#8, suPhaser P), (0x1B#8, suRepeat P)]

/-- SETUP_SEQ: the run is cleared, derived from the record, and given its noise. -/
theorem plain_setupSeq (P : Params) (s : State) :
    plain (setupSeq P) s = fillNoise P (plain (deriveSeq P) (suClear (suClamp (suReseed s)))) := rfl

theorem suClear_engineInv {s : State} (h : ∀ e ∈ s.emitted, unitOrNan e.value) : EngineInv 0x00#8 (suClear s) where
  mem_wf := rfl
  mem_window := nofun
  noise_unit := fun j hj => by
    rw [show (suClear s).mem = [] from rfl, ntRead_nil hj]
    decide +kernel
  count_le := Nat.zero_le _
  count_lt := fun _ => (by decide : (0#32).toNat < 441000)
  gen_term := fun _ => ⟨rfl, rfl, rfl⟩
  term_cause := nofun
  stage_le := Nat.zero_le _
  stage_gen := fun _ => Nat.zero_le _
  stage_env := nofun
  ipp_lt := (by decide : (0#32).toNat < 1024)
  phase_bound := (by decide : (0#32).toNat < 2 ^ 31 - 1)
  period_floor := nofun
  phase_lt := nofun
  tap_range := nofun
  rep_counted := (counted_due rfl).mpr (Nat.zero_le _)
  arp_counted := (counted_due rfl).mpr (Nat.zero_le _)
  env_counted := (counted_due rfl).mpr (Nat.zero_le _)
  emitted_unit := h
  emitted_index := rfl
  last_out := fun hne => absurd rfl hne

theorem plain_keeps {I : State → Prop} : ∀ {l : List MicroOp}, (∀ m ∈ l, ∀ s, I s → I (m.2 s)) →
    ∀ s, I s → I (plain l s)
  | [], _, _, hs => hs
  | m :: _, h, s, hs =>
    plain_keeps (fun m' hm => h m' (List.mem_cons_of_mem _ hm)) (m.2 s) (h m List.mem_cons_self s hs)

/-- The derivations write periods, factors, limits, lengths and the tap, and restart the arpeggio counter. -/
theorem deriveSeq_keeps (P : Params) : ∀ m ∈ deriveSeq P, ∀ s, EngineInv 0x00#8 s → EngineInv 0x00#8 (m.2 s) := by
  simp only [deriveSeq, List.forall_mem_cons]
  refine ⟨fun s h => ?suPeriod, fun s h => { h with }, fun s h => ?suArp, fun s h => { h with }, fun s h => { h with },
    fun s h => { h with }, fun s h => { h with }, fun s h => ?suPhaser, fun s h => { h with }, nofun⟩
  case suPeriod => exact { h with period_floor := nofun, phase_lt := nofun }
  case suArp => exact { h with arp_counted := (counted_due rfl).mpr (Nat.zero_le _) }
  case suPhaser => exact { h with tap_range := nofun }

theorem deriveSeq_gen (P : Params) : ∀ m ∈ deriveSeq P, ∀ s, s.syn.gen = true → (m.2 s).syn.gen = true := by
  simp only [deriveSeq, List.forall_mem_cons]
  exact ⟨fun _ h => h, fun _ h => h, fun _ h => h, fun _ h => h, fun _ h => h, fun _ h => h, fun _ h => h,
    fun _ h => h, fun _ h => h, nofun⟩

theorem fillNoise_syn (P : Params) (s : State) : (fillNoise P s).syn = s.syn := by
  rw [fillNoise, drawRange_eq]

/-- What SETUP_SEQ leaves, from any state whose emitted samples are in range. -/
theorem setupSeq_engineInv (P : Params) {s : State} (h : ∀ e ∈ s.emitted, unitOrNan e.value) :
    EngineInv 0x00#8 (plain (setupSeq P) s) ∧ (plain (setupSeq P) s).syn.gen = true := by
  have hemitted : (suClamp (suReseed s)).emitted = s.emitted := by rw [suClamp_eq, suReseed_eq]
  have hcleared : EngineInv 0x00#8 (suClear (suClamp (suReseed s))) := suClear_engineInv (by rw [hemitted]; exact h)
  rw [plain_setupSeq]
  refine ⟨(plain_keeps (deriveSeq_keeps P) _ hcleared).fillNoise P, ?_⟩
  rw [fillNoise_syn]
  exact plain_keeps (I := fun t => t.syn.gen = true) (deriveSeq_gen P) _ rfl

theorem setup_inv (P : Params) {s : State} (h : Inv s) : Inv (endSetup (performSeq (setupSeq P) s)) := by
  obtain ⟨hset, hgen⟩ := setupSeq_engineInv P h.emitted_unit
  rw [performSeq_eq_plain (setupSeq_uncontrolled P)]
  generalize plain (setupSeq P) s = t at hset hgen
  have hend : EngineInv 0x00#8 (endSetup (State.control (s.setUpc (lastUpc s.seq.upc (setupSeq P))) t)) := { hset with }
  exact hend.inv_between rfl (fun _ => hgen) nofun

/-! ## Commands, host accesses and reset -/

theorem setUpc_of_eq {s : State} {u : BitVec 8} (h : s.seq.upc = u) : s.setUpc u = s := by
  rw [← h]
  rfl

theorem Inv.abort {s : State} (h : Inv s) (hupc : s.seq.upc = 0x00#8) : Inv ((s.setRun .idle).setUpc 0x00#8) := by
  rw [setUpc_of_eq (s := s.setRun .idle) hupc]
  exact { h with
    count_lt := nofun
    upc_legal := .inl hupc
    ready_gen := nofun
    running_gen := nofun
    done_gen := nofun
    term_cause := nofun }

theorem command_inv {s : State} (h : Inv s) (hupc : s.seq.upc = 0x00#8) (v : BitVec 32) :
    Inv (command specParams v s) ∧ (command specParams v s).seq.upc = 0x00#8 := by
  have hready (hrun : s.run = .ready) : EngineInv 0x00#8 s := by
    have hengine := h.engineInv (.inl hrun)
    rwa [hupc] at hengine
  rcases command_cases specParams v s with hc | hc | ⟨-, hc⟩ | ⟨hrun, hc⟩ | ⟨hrun, hc⟩ | hc | ⟨-, hc⟩ <;> rw [hc]
  · exact ⟨h, hupc⟩
  · exact ⟨{ h with }, hupc⟩
  · exact ⟨setup_inv specParams h, rfl⟩
  · have hsample := outerSample_performs s ((hready hrun).mayBegin (h.ready_gen hrun))
    have hrun' : (outerSample specParams s).run = .ready := by
      rw [outerSample_eq_plain]
      generalize plainSample specParams s = t
      exact hrun
    exact ⟨hsample.endSample (.inl hrun'), rfl⟩
  · have hstart : EngineInv 0x00#8 (s.setRun .running) := { hready hrun with }
    exact ⟨hstart.inv_between hupc (fun _ => h.ready_gen hrun) nofun, hupc⟩
  · exact ⟨h.abort hupc, rfl⟩
  · exact ⟨{ h with }, hupc⟩

theorem hostWritePrm_inv {s : State} (h : Inv s) (n : Nat) (v : BitVec 32) : Inv (hostWritePrm n v s) := by
  unfold hostWritePrm
  split_ifs <;> exact { h with }

theorem hostWrite_inv {s : State} (h : Inv s) (hupc : s.seq.upc = 0x00#8) (off : BitVec 16) (v : BitVec 32) :
    Inv (hostWrite specParams off v s) ∧ (hostWrite specParams off v s).seq.upc = 0x00#8 := by
  rcases hostWrite_cases specParams off v s with ⟨n, -, hw⟩ | ⟨-, hw⟩ | hw <;> rw [hw]
  · refine ⟨hostWritePrm_inv h n v, ?_⟩
    unfold hostWritePrm
    split_ifs <;> exact hupc
  · exact command_inv h hupc v
  · exact ⟨h, hupc⟩

theorem powerOnReset_inv {s : State} (h : Inv s) : Inv (powerOnReset s) where
  mem_wf := rfl
  mem_window := nofun
  noise_unit := fun j hj => by
    rw [show (powerOnReset s).mem = [] from rfl, ntRead_nil hj]
    decide +kernel
  count_le := Nat.zero_le _
  count_lt := fun _ => (by decide : (0#32).toNat < 441000)
  upc_legal := .inl rfl
  ready_gen := nofun
  running_gen := nofun
  done_gen := nofun
  gen_term := nofun
  term_cause := nofun
  stage_le := Nat.zero_le _
  stage_gen := nofun
  stage_env := nofun
  ipp_lt := (by decide : (0#32).toNat < 1024)
  phase_bound := (by decide : (0#32).toNat < 2 ^ 31 - 1)
  period_floor := nofun
  phase_lt := nofun
  tap_range := nofun
  rep_counted := Nat.zero_le _
  arp_counted := Nat.zero_le _
  env_counted := Nat.zero_le _
  emitted_unit := h.emitted_unit
  emitted_index := rfl
  last_out := fun hne => absurd rfl hne

/-! ## One step -/

/-- The sequencer rests at IDLE (R152). -/
theorem advance_of_rest {s : State} (h : s.seq.upc = 0x00#8) : advance s = s := by
  unfold advance
  rw [h]
  rfl

/-- What a host's input gives: a write, a read, a reset, or no step. -/
theorem fetchInput_cases (inp : HostInput) (s : State) :
    (∃ off v, fetchInput inp s = .run (.wr off v) s) ∨ (∃ off, fetchInput inp s = .run (.rd off) s) ∨
      fetchInput inp s = .hold (powerOnReset s) ∨ ∃ r, fetchInput inp s = .stop r := by
  cases inp with
  | txn w =>
    unfold fetchInput decodeTxn
    dsimp only
    split_ifs
    · exact .inr (.inr (.inr ⟨_, rfl⟩))
    · exact .inl ⟨_, _, rfl⟩
    · exact .inr (.inr (.inr ⟨_, rfl⟩))
    · exact .inr (.inl ⟨_, rfl⟩)
  | access size write off v =>
    unfold fetchInput
    dsimp only
    split_ifs
    · exact .inl ⟨_, _, rfl⟩
    · exact .inr (.inl ⟨_, rfl⟩)
    · exact .inr (.inr (.inr ⟨_, rfl⟩))
  | reset => exact .inr (.inr (.inl rfl))

/-- After a host's access that has a next state the sequencer moves on. -/
theorem complete_access {i : Instr} {off : BitVec 16} {s s' t : State}
    (hexec : exec i s = if alignedOffset off then .next s' else .refused .misalignedAccess)
    (h : complete (exec i s) = .next t) : t = advance s' := by
  rw [hexec] at h
  split_ifs at h
  · injection h with h
    exact h.symm
  · exact nomatch h

/-- The state in which the host's next input is performed: the input is taken and the schedule has moved on. -/
def inputTaken (rest : List HostInput) (s : State) : State := arbitrate { s with inputs := rest }

/-- Executing what was fetched, as `step` does. -/
def perform (f : Fetched) : Host.Outcome State Fault Refusal :=
  match f with
  | .run i s => complete (exec i s)
  | .hold s => .next s
  | .stop r => .refused r

theorem step_eq_perform (s : State) : step s = perform (fetch s) := by
  unfold step perform
  cases fetch s <;> rfl

/-- What performing a host's input gives. -/
theorem perform_input {inp : HostInput} {s t : State} (h : perform (fetchInput inp s) = .next t) :
    t = powerOnReset s ∨ (∃ off, t = advance (hostRead off s)) ∨ ∃ off v, t = advance (hostWrite specParams off v s) := by
  rcases fetchInput_cases inp s with ⟨off, v, hf⟩ | ⟨off, hf⟩ | hf | ⟨r, hf⟩ <;> rw [hf] at h
  · exact .inr (.inr ⟨off, v, complete_access rfl h⟩)
  · exact .inr (.inl ⟨off, complete_access rfl h⟩)
  · injection h with h
    exact .inl h.symm
  · exact nomatch h

/-- What performing at a boundary gives: the first micro-operation of a sample, a rest, or the host's next input. -/
theorem perform_boundary {s t : State} (h : perform (fetchBoundary s) = .next t) :
    s.run = .running ∧ complete (exec .psRepeat ((arbitrate s).setUpc 0x20#8)) = .next t ∨ t = advance s ∨
    ∃ inp rest, perform (fetchInput inp (inputTaken rest s)) = .next t := by
  unfold fetchBoundary at h
  split at h
  · split_ifs at h with hrun
    · exact .inl ⟨hrun, h⟩
    · injection h with h
      exact .inr (.inl h.symm)
  · split_ifs at h with hrun
    · exact .inl ⟨hrun.1, h⟩
    · exact .inr (.inr ⟨_, _, h⟩)

/-- What performing in the midst of a sequence gives: the micro-operation in `upc`. -/
theorem perform_microOp {s t : State} (hupc : s.seq.upc ≠ 0x00#8) (h : perform (fetch s) = .next t) :
    ∃ i, decodeUop s.seq.upc = .ok i ∧ complete (exec i s) = .next t := by
  unfold fetch at h
  rw [if_neg hupc] at h
  cases hdec : decodeUop s.seq.upc with
  | ok i =>
    rw [hdec] at h
    exact ⟨i, rfl, h⟩
  | error e =>
    rw [hdec] at h
    exact nomatch h

/-- The host's next input keeps the invariant. -/
theorem inv_perform_input {inp : HostInput} {s t : State} (h : Inv s) (hupc : s.seq.upc = 0x00#8)
    (ht : perform (fetchInput inp s) = .next t) : Inv t := by
  rcases perform_input ht with rfl | ⟨off, rfl⟩ | ⟨off, v, rfl⟩
  · exact powerOnReset_inv h
  · have hread : Inv (hostRead off s) := { h with }
    have hupc' : (hostRead off s).seq.upc = 0x00#8 := hupc
    rwa [advance_of_rest hupc']
  · obtain ⟨hwrite, hupc'⟩ := hostWrite_inv h hupc off v
    rwa [advance_of_rest hupc']

/-- Settles O50: a step is a micro-operation, in the midst of a sample or its first, or a rest, or the host's next input,
and each keeps the invariant. -/
theorem invariantKeptByEveryStep : Obligations.InvariantKeptByEveryStep := by
  intro s t h hstep
  rw [step_eq_perform] at hstep
  by_cases hupc : s.seq.upc = 0x00#8
  · rw [fetch, if_pos hupc] at hstep
    rcases perform_boundary hstep with ⟨hrun, ht⟩ | rfl | ⟨inp, rest, ht⟩
    · have hdrawn : Inv (arbitrate s) := { h with }
      have hne : ((arbitrate s).setUpc 0x20#8).seq.upc ≠ 0x00#8 := (by decide : (0x20#8 : BitVec 8) ≠ 0x00#8)
      exact inv_step_engine (hdrawn.startSample hupc hrun) hne rfl ht
    · rwa [advance_of_rest hupc]
    · have htaken : Inv (inputTaken rest s) := { h with }
      exact inv_perform_input htaken hupc ht
  · obtain ⟨i, hdec, ht⟩ := perform_microOp hupc hstep
    exact inv_step_engine h hupc hdec ht

end Sys2Proof.Machine
end

section
/-! PROOFS. The host window outside the parameter record: which accesses have no step, that a read has no side effect, what
the reserved and the read-only offsets do, and what the debug mirror and the two memory windows hold (20_memory.md R81 to
R90). -/

namespace Sys2Proof.Machine

/-! ## Accesses without a step -/

theorem alignedOffset_eq_false {off : BitVec 16} (h : off.extractLsb' 0 2 ≠ 0#2) : alignedOffset off = false :=
  beq_eq_false_iff_ne.mpr h

/-- A misaligned write is refused (R88). -/
theorem exec_wr_misaligned {off : BitVec 16} (h : alignedOffset off = false) (v : BitVec 32) (s : State) :
    exec (.wr off v) s = .refused .misalignedAccess := if_neg (by simp [h])

/-- A misaligned read is refused (R88). -/
theorem exec_rd_misaligned {off : BitVec 16} (h : alignedOffset off = false) (s : State) :
    exec (.rd off) s = .refused .misalignedAccess := if_neg (by simp [h])

/-- An access of another size than 4 bytes is refused before it is an instruction (R88). -/
theorem fetchInput_wrong_size {size : Nat} (h : size ≠ 4) (write : Bool) (off : BitVec 16) (v : BitVec 32) (s : State) :
    fetchInput (.access size write off v) s = .stop .accessSize := if_neg h

/-- Settles O19: alignment is what WR and RD test first, and the size is tested before there is a WR or RD. -/
theorem otherAccessesHaveNoStep : Obligations.OtherAccessesHaveNoStep := fun off v s =>
  ⟨fun h => ⟨exec_wr_misaligned (alignedOffset_eq_false h) v s, exec_rd_misaligned (alignedOffset_eq_false h) s⟩,
    fun _ write hsize => fetchInput_wrong_size hsize write off v s⟩

/-! ## Reads -/

/-- An aligned read hands the host the value of the register its offset names (R81). -/
theorem exec_rd_windowReg {off : BitVec 16} {r : WindowReg} (ha : alignedOffset off = true) (hr : windowReg off = r)
    (s : State) : exec (.rd off) s = .next { s with hostRdata := r.value s } := by
  rw [exec_rd ha, hostValue, hr]

/-- No register of the window holds what the host has read (R90). -/
theorem WindowReg.value_setRdata (r : WindowReg) (s : State) (held : BitVec 32) :
    r.value (s.setRdata held) = r.value s := by
  cases r <;> rfl

/-- Settles O14: a read replaces the held value by that of a register, and no register depends on the held value. -/
theorem readsHaveNoSideEffect : Obligations.ReadsHaveNoSideEffect := fun off s ha =>
  ⟨hostValue s off, fun held => by
    show exec (.rd off) (s.setRdata held) = _
    rw [exec_rd ha, hostValue, WindowReg.value_setRdata]
    rfl⟩

/-! ## Reserved and read-only offsets -/

/-- The reserved ranges (R81). -/
theorem windowReg_reserved {off : BitVec 16} (h : 0x080 ≤ off.toNat ∧ off.toNat < 0x100 ∨
    0x1A0 ≤ off.toNat ∧ off.toNat < 0x1000 ∨ 0x2080 ≤ off.toNat) : windowReg off = .reserved := by
  unfold windowReg
  generalize off.toNat = a at *
  dsimp only
  iterate 9 rw [if_neg (by omega)]
  rcases h with h | h | h
  · rw [if_pos (by omega)]
  · iterate 2 rw [if_neg (by omega)]
    rw [if_pos (by omega)]
  · iterate 5 rw [if_neg (by omega)]

/-- A write above CTRL is ignored (R83, R86). -/
theorem exec_wr_above_ctrl {off : BitVec 16} (ha : alignedOffset off = true) (h : 0x064 ≤ off.toNat) (v : BitVec 32)
    (s : State) : exec (.wr off v) s = .next s := by
  obtain ⟨hprm, hctrl⟩ := windowReg_above h
  rw [exec_wr ha]
  rcases hostWrite_cases specParams off v s with ⟨n, hreg, -⟩ | ⟨hreg, -⟩ | hkeep
  · exact absurd hreg (hprm n)
  · exact absurd hreg hctrl
  · rw [hkeep]

/-- Settles O13: above CTRL no register takes a write, and the reserved ranges name the register that reads 0. -/
theorem readOnlyAndReservedOffsets : Obligations.ReadOnlyAndReservedOffsets := by
  refine fun off v s ha => ⟨?_, fun h => exec_wr_above_ctrl ha h v s, fun h => ?_⟩
  · rw [decodeCmd_low, exec_decodeCmd, exec_wr_ctrl]
  · exact exec_rd_windowReg ha (windowReg_reserved h) s

/-! ## The debug mirror -/

/-- Offset `0x100 + 4n` names word `n` of the mirror (R84), and is aligned. -/
theorem debugOffset {n : Nat} (hn : n < 40) : alignedOffset (BitVec.ofNat 16 (0x100 + 4 * n)) = true ∧
    windowReg (BitVec.ofNat 16 (0x100 + 4 * n)) = .debug n := by
  obtain ⟨htoNat, haligned⟩ := offset_word 0x100 n rfl (by omega)
  refine ⟨haligned, ?_⟩
  rw [windowReg_debug (by omega) (by omega), htoNat, Nat.add_sub_cancel_left, Nat.mul_div_cancel_left n (by omega)]

/-- A read of word `n` of the mirror hands it to the host. -/
theorem exec_rd_debug {s : State} {n : Nat} {v : BitVec 32} (hv : s.syn.words[n]? = some v) :
    exec (.rd (BitVec.ofNat 16 (0x100 + 4 * n))) s = .next { s with hostRdata := v } := by
  have hn : n < s.syn.words.length := (List.getElem?_eq_some_iff.mp hv).1
  obtain ⟨haligned, hreg⟩ := debugOffset hn
  rw [exec_rd_windowReg haligned hreg, WindowReg.value, List.getD_eq_getElem?_getD, hv]
  rfl

/-- The offsets of the mirror, each with its word. -/
def debugLayout (y : Synth) : List (BitVec 16 × BitVec 32) :=
  y.words.zipIdx.map fun (v, n) => (BitVec.ofNat 16 (0x100 + 4 * n), v)

theorem exec_rd_of_mem_debugLayout {s : State} {off : BitVec 16} {v : BitVec 32} (h : (off, v) ∈ debugLayout s.syn) :
    exec (.rd off) s = .next { s with hostRdata := v } := by
  obtain ⟨⟨w, n⟩, hmem, heq⟩ := List.mem_map.mp h
  obtain ⟨rfl, rfl⟩ := Prod.mk.inj heq
  exact exec_rd_debug (List.mem_zipIdx_iff_getElem?.mp hmem)

/-- The f64 registers, in the order of the mirror (R42). -/
def Synth.wide (y : Synth) : List F64 := [y.fperiod, y.fmaxperiod, y.fslide, y.fdslide, y.arpMod]

/-- The offsets of the f64 registers: two words each from 0x108 on. -/
def wideLayout (y : Synth) : List (BitVec 16 × F64) :=
  y.wide.zipIdx.map fun (x, k) => (BitVec.ofNat 16 (0x100 + 4 * (2 + 2 * k)), x)

/-- Register `k` of them is two words of the mirror, the low one first (R84). -/
theorem words_wide {y : Synth} {k : Nat} {x : F64} (h : y.wide[k]? = some x) :
    y.words[2 + 2 * k]? = some (x.extractLsb' 0 32) ∧ y.words[2 + 2 * k + 1]? = some (x.extractLsb' 32 32) := by
  have hk : k < 5 := (List.getElem?_eq_some_iff.mp h).1
  interval_cases k <;> cases h <;> exact ⟨rfl, rfl⟩

/-- An f64 register is read in two halves. -/
theorem exec_rd_of_mem_wideLayout {s : State} {off : BitVec 16} {x : F64} (h : (off, x) ∈ wideLayout s.syn) :
    exec (.rd off) s = .next { s with hostRdata := x.extractLsb' 0 32 } ∧
      exec (.rd (off + 4#16)) s = .next { s with hostRdata := x.extractLsb' 32 32 } := by
  obtain ⟨⟨z, k⟩, hmem, heq⟩ := List.mem_map.mp h
  obtain ⟨rfl, rfl⟩ := Prod.mk.inj heq
  obtain ⟨hlow, hhigh⟩ := words_wide (List.mem_zipIdx_iff_getElem?.mp hmem)
  have hnext : BitVec.ofNat 16 (0x100 + 4 * (2 + 2 * k)) + 4#16 = BitVec.ofNat 16 (0x100 + 4 * (2 + 2 * k + 1)) :=
    (BitVec.ofNat_add _ _).symm
  exact ⟨exec_rd_debug hlow, hnext ▸ exec_rd_debug hhigh⟩

/-- Settles O16: the tables of R42 to R45 are the words of the mirror with their indices; words 2 to 11 are the halves of
the five f64 registers, which join to the register. -/
theorem debugMirrorLayout : Obligations.DebugMirrorLayout := by
  refine fun s => ⟨fun off v h => exec_rd_of_mem_debugLayout ?_, fun off x h => ?_⟩
  · have hsplit : (off, v) ∈ (debugLayout s.syn).take 2 ++ (debugLayout s.syn).drop 12 := h
    exact (List.mem_append.mp hsplit).elim List.mem_of_mem_take List.mem_of_mem_drop
  · obtain ⟨hlow, hhigh⟩ := exec_rd_of_mem_wideLayout (x := x) h
    exact ⟨_, _, hlow, hhigh, Laws.RoundTrip.join_halves x⟩

/-! ## The memory windows -/

/-- An index below 1024 selects its own slot (R98). -/
theorem dlSlot_ofNat {i : Nat} (hi : i < 1024) : dlSlot (BitVec.ofNat 32 i) = i := by
  have hmask : (BitVec.ofNat 32 i &&& 1023#32).toNat = i % 2 ^ 32 &&& (2 ^ 10 - 1) := by
    rw [BitVec.toNat_and, BitVec.toNat_ofNat]
    rfl
  rw [dlSlot, hmask, Nat.and_two_pow_sub_one_eq_mod]
  omega

/-- Settles O18: word `i` of a window is slot `i` of its memory. -/
theorem memoryWindowsRead : Obligations.MemoryWindowsRead := by
  refine fun s => ⟨fun i hi => ?_, fun j hj => ?_⟩
  · obtain ⟨htoNat, haligned⟩ := offset_word 0x1000 i rfl (by omega)
    have hreg : windowReg (BitVec.ofNat 16 (0x1000 + 4 * i)) = .dl i := by
      rw [windowReg_dl (by omega) (by omega), htoNat, Nat.add_sub_cancel_left, Nat.mul_div_cancel_left i (by omega)]
    rw [exec_rd_windowReg haligned hreg, dlRead, dlSlot_ofNat hi]
    rfl
  · obtain ⟨htoNat, haligned⟩ := offset_word 0x2000 j rfl (by omega)
    have hreg : windowReg (BitVec.ofNat 16 (0x2000 + 4 * j)) = .nt j := by
      rw [windowReg_nt (by omega) (by omega), htoNat, Nat.add_sub_cancel_left, Nat.mul_div_cancel_left j (by omega)]
    have hslot : ntRead s.mem j = s.mem.readWord (ntAddr j) := if_pos hj
    rw [exec_rd_windowReg haligned hreg, hslot]
    rfl

end Sys2Proof.Machine
end

section
/-! PROOFS. Which micro-operations write each thing they share: the record, the memories, the port, the sample registers, the
random source and the TERM bits (20_memory.md R99; 60_exceptions.md R333). -/

namespace Sys2Proof.Machine

/-- `t` with what a micro-operation `i` does not write taken back from `s`. Every one of them may write the Synthesis State
and the temporaries; of what they share, each part has its writers. -/
def State.keepUnwritten (i : Instr) (s t : State) : State :=
  { t with
    prm := if i = .suClamp then t.prm else s.prm
    mem := if i ∈ [.suClear, .suNoise, .ssPhase, .ssPhaser] then t.mem else s.mem
    emitted := if i = .poOut then t.emitted else s.emitted
    sampleCount := if i ∈ [.poOut, .suClear] then t.sampleCount else s.sampleCount
    sampleOut := if i ∈ [.poOut, .suClear] then t.sampleOut else s.sampleOut
    termCap := if i ∈ [.poOut, .suClear] then t.termCap else s.termCap
    rng := if i ∈ [.suReseed, .suNoise, .ssPhase] then t.rng else s.rng
    termEnv := if i ∈ [.psEnv, .suClear] then t.termEnv else s.termEnv
    termFloor := if i ∈ [.psSlide, .suClear] then t.termFloor else s.termFloor }

/-- A change of the Synthesis State and the sequencer's registers alone writes no part that has its own writers. -/
theorem keepUnwritten_of_datapath (i : Instr) {s t : State} {y : Synth} {q : Seq}
    (h : t = { s with syn := y, seq := q }) : t = State.keepUnwritten i s t := by
  subst h
  simp only [State.keepUnwritten, ite_self]

/-- The two that fill the noise table change memory and the random source besides (R192, R262). -/
theorem keepUnwritten_of_noise {i : Instr} (hi : i = .suNoise ∨ i = .ssPhase) {s t : State} {y : Synth} {m : Memory}
    {r : RngSource} (h : t = { s with syn := y, mem := m, rng := r }) : t = State.keepUnwritten i s t := by
  subst h
  rcases hi with rfl | rfl <;> rfl

/-- A micro-operation, and a waveform case alone, writes the parts it is a writer of and no other (the "Registers written"
of files 41 to 48). -/
theorem exec_writes {i : Instr} (hi : i.format = .uop ∨ i.format = .wavesel) (s : State) :
    ∃ t, exec i s = .next t ∧ t = State.keepUnwritten i s t := by
  cases i with
  | suReseed => exact ⟨_, rfl, by rw [suReseed_eq]; rfl⟩
  | suClamp => exact ⟨_, rfl, rfl⟩
  | suClear => exact ⟨_, rfl, rfl⟩
  | suNoise => exact ⟨_, rfl, keepUnwritten_of_noise (.inl rfl) (suNoise_eq _ s)⟩
  | psSlide => exact ⟨_, rfl, by rw [psSlide_eq]; rfl⟩
  | psEnv => exact ⟨_, rfl, by rw [psEnv_eq]; rfl⟩
  | ssPhase => exact ⟨_, rfl, keepUnwritten_of_noise (.inr rfl) (ssPhase_eq _ s)⟩
  | ssPhaser => exact ⟨_, rfl, by rw [ssPhaser_eq]; rfl⟩
  | poOut => exact ⟨_, rfl, by rw [poOut_eq]; rfl⟩
  | idle => exact ⟨_, rfl, keepUnwritten_of_datapath _ (y := s.syn) (q := s.seq) rfl⟩
  | suPeriod => exact ⟨_, rfl, keepUnwritten_of_datapath _ (suPeriod_eq _ s)⟩
  | suSlide => exact ⟨_, rfl, keepUnwritten_of_datapath _ (suSlide_eq _ s)⟩
  | suArp => exact ⟨_, rfl, keepUnwritten_of_datapath _ (suArp_eq _ s)⟩
  | suDuty => exact ⟨_, rfl, keepUnwritten_of_datapath _ (suDuty_eq _ s)⟩
  | suFilter => exact ⟨_, rfl, keepUnwritten_of_datapath _ (suFilter_eq _ s)⟩
  | suVibrato => exact ⟨_, rfl, keepUnwritten_of_datapath _ (suVibrato_eq _ s)⟩
  | suEnvlen => exact ⟨_, rfl, keepUnwritten_of_datapath _ (suEnvlen_eq _ s)⟩
  | suPhaser => exact ⟨_, rfl, keepUnwritten_of_datapath _ (suPhaser_eq _ s)⟩
  | suRepeat => exact ⟨_, rfl, keepUnwritten_of_datapath _ (suRepeat_eq _ s)⟩
  | psRepeat => exact ⟨_, rfl, keepUnwritten_of_datapath _ (psRepeat_eq _ s)⟩
  | psArp => exact ⟨_, rfl, keepUnwritten_of_datapath _ (psArp_eq _ s)⟩
  | psVibrato => exact ⟨_, rfl, keepUnwritten_of_datapath _ (psVibrato_eq _ s)⟩
  | psPeriod => exact ⟨_, rfl, keepUnwritten_of_datapath _ (psPeriod_eq _ s)⟩
  | psDuty => exact ⟨_, rfl, keepUnwritten_of_datapath _ (psDuty_eq _ s)⟩
  | psPhaserTap => exact ⟨_, rfl, keepUnwritten_of_datapath _ (psPhaserTap_eq _ s)⟩
  | psHpSweep => exact ⟨_, rfl, keepUnwritten_of_datapath _ (psHpSweep_eq _ s)⟩
  | psSsclr => exact ⟨_, rfl, keepUnwritten_of_datapath _ (psSsclr_eq s)⟩
  | ssWave => exact ⟨_, rfl, keepUnwritten_of_datapath _ (ssWave_eq _ s)⟩
  | ssLpf => exact ⟨_, rfl, keepUnwritten_of_datapath _ (ssLpf_eq _ s)⟩
  | ssHpf => exact ⟨_, rfl, keepUnwritten_of_datapath _ (ssHpf_eq _ s)⟩
  | ssAcc => exact ⟨_, rfl, keepUnwritten_of_datapath _ (ssAcc_eq _ s)⟩
  | waveSquare | waveSawtooth | waveSine | waveNoise | waveOther =>
    exact ⟨_, rfl, keepUnwritten_of_datapath _ (y := s.syn) (q := { s.seq with sample := _ }) rfl⟩
  | _ => rcases hi with h | h <;> exact nomatch h

/-- No micro-operation writes the control part. -/
theorem exec_keeps_control {i : Instr} (hi : i.format = .uop ∨ i.format = .wavesel) {s t : State}
    (h : exec i s = .next t) :
    t.run = s.run ∧ t.cmdErr = s.cmdErr ∧ t.wErr = s.wErr ∧ t.inputs = s.inputs ∧ t.hostRdata = s.hostRdata ∧
      t.hostTurn = s.hostTurn ∧ t.tick = s.tick ∧ t.seq.upc = s.seq.upc ∧ t.seq.si = s.seq.si := by
  obtain ⟨f, hf, hexec⟩ := exec_engine hi
  obtain rfl : f s = t := by injection (hexec s).symm.trans h
  rw [hf.keeps s]
  exact ⟨rfl, rfl, rfl, rfl, rfl, rfl, rfl, rfl, rfl⟩

/-- Settles O45: the control part no micro-operation writes, and each other part has the writers that the obligation
names. -/
theorem microOperationFrame : Obligations.MicroOperationFrame := by
  intro i s t hi hexec
  obtain ⟨hrun, hcmd, hw, hinputs, hrdata, hturn, htick, hupc, hsi⟩ := exec_keeps_control hi hexec
  have hwrites : t = State.keepUnwritten i s t := by
    obtain ⟨u, hnext, hu⟩ := exec_writes hi s
    obtain rfl : u = t := by injection hnext.symm.trans hexec
    exact hu
  refine ⟨hrun, hcmd, hw, hinputs, hrdata, hturn, htick, hupc, hsi, fun h => ?_, fun h a => ?_, fun h => ?_,
    fun h => ⟨?_, ?_, ?_⟩, fun h => ?_, fun h => ?_, fun h => ?_⟩
  · exact (congrArg State.prm hwrites).trans (if_neg h)
  · exact congrArg (·.readByte a) ((congrArg State.mem hwrites).trans (if_neg h))
  · exact (congrArg State.emitted hwrites).trans (if_neg h)
  · exact (congrArg State.sampleCount hwrites).trans (if_neg h)
  · exact (congrArg State.sampleOut hwrites).trans (if_neg h)
  · exact (congrArg State.termCap hwrites).trans (if_neg h)
  · exact (congrArg State.rng hwrites).trans (if_neg h)
  · exact (congrArg State.termEnv hwrites).trans (if_neg h)
  · exact (congrArg State.termFloor hwrites).trans (if_neg h)

end Sys2Proof.Machine
end

section
/-! PROOFS. The decoder and the encoder are inverse: a well-formed instruction's bytes decode to it, and bytes that decode
are the bytes of what they decode to, in every format whose words have one meaning each (30_encoding.md R114, R120, R127;
00_scope.md R23, R24). -/

namespace Sys2Proof.Laws.RoundTrip

/-! ## From an instruction to its bytes and back -/

/-- Settles O1: only the transactions and the selectors outside 0..3 carry operands; every other instruction has one
word, which the decoder's table lists. -/
theorem decodeInvertsEncode : Obligations.DecodeInvertsEncode := by
  intro i
  cases i with
  | wr off data => exact wr off data
  | rd off => exact rd off
  | waveOther sel => exact waveOther sel
  | _ => exact fun _ => rfl

/-! ## From accepted bytes to an instruction and back -/

/-- The bytes of a transaction word that is eight bytes are those eight. -/
theorem bytes64_le64 (b0 b1 b2 b3 b4 b5 b6 b7 : Byte) :
    bytes64 (le64 b0 b1 b2 b3 b4 b5 b6 b7) = [b0, b1, b2, b3, b4, b5, b6, b7] := by
  have hlow : (le64 b0 b1 b2 b3 b4 b5 b6 b7).extractLsb' 0 32 = le32 b0 b1 b2 b3 := BitVec.extractLsb'_append_eq_right
  have hhigh : (le64 b0 b1 b2 b3 b4 b5 b6 b7).extractLsb' 32 32 = le32 b4 b5 b6 b7 := BitVec.extractLsb'_append_eq_left
  rw [bytes64, hlow, hhigh, Machine.bytes32_le32, Machine.bytes32_le32]
  rfl

/-- A transaction word whose reserved bits are 0 is built from its W bit, offset and data (30_encoding.md R127). -/
theorem txnWord_of_fields {w : BitVec 64} {write : Bool} (hreserved : w.extractLsb' 48 15 = 0#15)
    (hwrite : w.extractLsb' 63 1 = BitVec.ofBool write) :
    txnWord write (w.extractLsb' 32 16) (w.extractLsb' 0 32) = w := by
  unfold txnWord
  rw [← hreserved, ← hwrite, BitVec.extractLsb'_append_extractLsb'_eq_extractLsb' (show 63 = 48 + 15 from rfl),
    BitVec.extractLsb'_append_extractLsb'_eq_extractLsb' (show 48 = 32 + 16 from rfl),
    BitVec.extractLsb'_append_extractLsb'_eq_extractLsb' (show 32 = 0 + 32 from rfl)]
  exact BitVec.extractLsb'_eq_self

/-- A transaction word that decodes is the word of the transaction: the reserved bits, and a read's data, are checked. -/
theorem encode_of_decodeTxn {w : BitVec 64} {i : Instr} (h : decodeTxn w = .ok i) :
    i.format = .txn ∧ encode i = bytes64 w := by
  unfold decodeTxn at h
  split_ifs at h with hreserved hwrite hdata
  · cases h
    exact ⟨rfl, congrArg bytes64 (txnWord_of_fields (write := true) (not_not.mp hreserved) hwrite)⟩
  · cases h
    have hread : w.extractLsb' 63 1 = BitVec.ofBool false := (BitVec.eq_zero_or_eq_one _).resolve_right hwrite
    have hword := txnWord_of_fields (not_not.mp hreserved) hread
    rw [not_not.mp hdata] at hword
    exact ⟨rfl, congrArg bytes64 hword⟩

/-- An id that decodes is the id of its micro-operation: the table lists each once (30_encoding.md R120). -/
theorem encode_of_decodeUop {id : BitVec 8} {i : Instr} (h : decodeUop id = .ok i) :
    i.format = .uop ∧ encode i = [id] := by
  have hid : id = BitVec.ofNat 8 id.toNat := (BitVec.ofNat_toNat 8 id).symm
  unfold decodeUop at h
  split at h
  case h_32 => exact nomatch h
  all_goals
    next hn =>
    cases h
    rw [hid, hn]
    exact ⟨rfl, rfl⟩

/-- Every selector is the word of the waveform case it picks (00_scope.md R23, R24). -/
theorem encode_decodeWave (sel : I32) : (decodeWave sel).format = .wavesel ∧ encode (decodeWave sel) = bytes32 sel := by
  have hsel : BitVec.ofNat 32 sel.toNat = sel := BitVec.ofNat_toNat 32 sel
  unfold decodeWave
  split
  case h_5 => exact ⟨rfl, rfl⟩
  all_goals
    next hn =>
    rw [← hsel, hn]
    exact ⟨rfl, rfl⟩

/-- Settles O2: bytes of a format's length are those of the word they join to, and that word is the instruction's. -/
theorem acceptedBytesReencode : Obligations.AcceptedBytesReencode := by
  intro f bytes i hf h
  unfold decode at h
  split at h
  · exact absurd rfl hf
  · exact encode_of_decodeUop h
  · obtain ⟨hformat, hbytes⟩ := encode_of_decodeTxn h
    exact ⟨hformat, hbytes.trans (bytes64_le64 ..)⟩
  · cases h
    obtain ⟨hformat, hbytes⟩ := encode_decodeWave (le32 ..)
    exact ⟨hformat, hbytes.trans (Machine.bytes32_le32 ..)⟩
  · exact nomatch h

/-! ## Words of the tables -/

/-- Settles O3: each word is looked up in its table. -/
theorem specWordsDecode : Obligations.SpecWordsDecode := by
  unfold Obligations.SpecWordsDecode
  decide

end Sys2Proof.Laws.RoundTrip
end

section
/-! PROOFS. The commands (40_control.md R140 to R147): each does, in every state, what the table of R140 says, and SETUP
performs SETUP_SEQ (R142, R151). -/

namespace Sys2Proof.Machine

/-! ## The table of R140 -/

theorem cmdSetup_of_running (P : Params) {s : State} (h : s.run = .running) : cmdSetup P s = refuseCommand s := by
  unfold cmdSetup
  rw [h]

theorem cmdSetup_of_ne_running (P : Params) {s : State} (h : s.run ≠ .running) :
    cmdSetup P s = endSetup (performSeq (setupSeq P) s) := by
  unfold cmdSetup
  cases hrun : s.run with
  | running => exact absurd hrun h
  | idle | ready | done => rfl

theorem cmdStep_of_ready (P : Params) {s : State} (h : s.run = .ready) :
    cmdStep P s = endSample (outerSample P s) := by
  unfold cmdStep
  rw [h]

theorem cmdStep_of_ne_ready (P : Params) {s : State} (h : s.run ≠ .ready) : cmdStep P s = refuseCommand s := by
  unfold cmdStep
  cases hrun : s.run with
  | ready => exact absurd hrun h
  | idle | running | done => rfl

theorem cmdRun_of_ready {s : State} (h : s.run = .ready) : cmdRun s = s.setRun .running := by
  unfold cmdRun
  rw [h]

theorem cmdRun_of_ne_ready {s : State} (h : s.run ≠ .ready) : cmdRun s = refuseCommand s := by
  unfold cmdRun
  cases hrun : s.run with
  | ready => exact absurd hrun h
  | idle | running | done => rfl

/-- Settles O5: a reserved opcode is refused by its own meaning, SETUP, STEP and RUN by the table of R140. -/
theorem refusedCommandsOnlySetCmdErr : Obligations.RefusedCommandsOnlySetCmdErr := by
  intro i s h
  show exec i s = .next (refuseCommand s)
  rcases h with hreserved | ⟨rfl, hrun⟩ | ⟨rfl, hrun⟩ | ⟨rfl, hrun⟩
  · simp only [List.mem_cons, List.not_mem_nil, or_false] at hreserved
    rcases hreserved with rfl | rfl | rfl | rfl | rfl | rfl | rfl | rfl | rfl | rfl <;> rfl
  · exact congrArg Host.Outcome.next (cmdSetup_of_running specParams hrun)
  · exact congrArg Host.Outcome.next (cmdStep_of_ne_ready specParams hrun)
  · exact congrArg Host.Outcome.next (cmdRun_of_ne_ready hrun)

/-- Every word whose low four bits are 0 is a NOP (30_encoding.md R114). -/
theorem decodeCmd_eq_nop {v : BitVec 32} (h : v &&& 0xF#32 = 0#32) : decodeCmd v = .nop := by
  rw [← decodeCmd_low, h]
  rfl

/-- Settles O6: each meaning is the update it names, and a write to CTRL is the command of its low four bits. -/
theorem commandsWithoutSamples : Obligations.CommandsWithoutSamples := by
  refine fun s v => ⟨rfl, rfl, fun hv => ?_, rfl, rfl, fun hrun => congrArg Host.Outcome.next (cmdRun_of_ready hrun)⟩
  obtain ⟨hwrite, -, -⟩ := ctrlWriteIssuesCommand v s
  rw [hwrite, decodeCmd_eq_nop hv]
  rfl

/-! ## Instructions and the operations of a sequence -/

/-- Executing instructions one after another performs the operations of a sequence. -/
def Executes (is : List Instr) (f : State → State) : Prop := ∀ s, execSeq is s = .next (f s)

theorem executes_nil : Executes [] (plain []) := fun _ => rfl

theorem Executes.cons {i : Instr} {is : List Instr} {f : State → State} {l : List MicroOp}
    (hi : ∀ s, exec i s = .next (f s)) (his : Executes is (plain l)) {u : BitVec 8} :
    Executes (i :: is) (plain ((u, f) :: l)) := by
  intro s
  rw [execSeq, hi]
  exact his (f s)

theorem Executes.append {is js : List Instr} {f g : State → State} (hf : Executes is f) (hg : Executes js g) :
    Executes (is ++ js) (g ∘ f) :=
  fun s => (execSeq_append is js (hf s)).trans (hg (f s))

theorem Executes.replicate {is : List Instr} {f : State → State} (h : Executes is f) :
    ∀ n, Executes (List.replicate n is).flatten f^[n]
  | 0 => fun _ => rfl
  | n + 1 => by
    rw [List.replicate_succ, List.flatten_cons, Function.iterate_succ]
    exact h.append (h.replicate n)

/-! ## SETUP -/

theorem setupInstrs_executes : Executes setupInstrs (plain (setupSeq specParams)) :=
  .cons (fun _ => rfl) <| .cons (fun _ => rfl) <| .cons (fun _ => rfl) <| .cons (fun _ => rfl) <|
    .cons (fun _ => rfl) <| .cons (fun _ => rfl) <| .cons (fun _ => rfl) <| .cons (fun _ => rfl) <|
    .cons (fun _ => rfl) <| .cons (fun _ => rfl) <| .cons (fun _ => rfl) <| .cons (fun _ => rfl) <|
    .cons (fun _ => rfl) executes_nil

theorem endSetup_control (c u : State) (k : BitVec 8) :
    endSetup (State.control (c.setUpc k) u) = endSetup (State.control c u) := rfl

/-- SETUP is the operations of SETUP_SEQ and then READY, with `upc` at rest. -/
theorem exec_setup {s : State} (h : s.run ≠ .running) :
    exec .setup s = .next (endSetup (plain (setupSeq specParams) s)) := by
  have hkeeps := (plain_uncontrolled (setupSeq_uncontrolled specParams)).keeps s
  have hexec : exec .setup s = .next (endSetup (performSeq (setupSeq specParams) s)) :=
    congrArg Host.Outcome.next (cmdSetup_of_ne_running specParams h)
  rw [hexec, performSeq_eq_plain (setupSeq_uncontrolled specParams), endSetup_control, ← hkeeps]

/-- Settles O8: the instructions perform the sequence's operations, and SETUP performs them too. -/
theorem setupPerformsItsSequence : Obligations.SetupPerformsItsSequence := by
  intro s h
  have hseq := setupInstrs_executes s
  have hexec := exec_setup h
  generalize plain (setupSeq specParams) s = u at hseq hexec
  exact ⟨u, hseq, hexec⟩

/-- The derivations of SETUP_SEQ, from the record (R183 to R191). -/
def Synth.derive (P : Params) (p : Prm) (y : Synth) : Synth :=
  (((((((((y.derivePeriod P p).deriveSlide P p).deriveArp P p).deriveDuty P p).deriveFilter P p).deriveVibrato P p
    ).deriveEnvlen P p).derivePhaser P p).deriveRepeat P p)

theorem setSyn_setSyn (s : State) (y z : Synth) : (s.setSyn y).setSyn z = s.setSyn z := rfl

/-- The derivations write the Synthesis State alone. -/
theorem plain_deriveSeq (P : Params) (s : State) : plain (deriveSeq P) s = s.setSyn (s.syn.derive P s.prm) := by
  simp only [deriveSeq, plain, suPeriod, suSlide, suArp, suDuty, suFilter, suVibrato, suEnvlen, suPhaser, suRepeat,
    setSyn_setSyn, State.setSyn_syn, State.setSyn_prm, Synth.derive]

/-- SETUP_SEQ before its noise: a cleared run, derived from the clamped record. -/
def setupDerived (P : Params) (s : State) : State :=
  { s with
    prm := s.prm.clamp, termEnv := false, termFloor := false, termCap := false, sampleCount := 0#32,
    sampleOut := 0#32, syn := (Synth.zero true).derive P s.prm.clamp, mem := [], rng := (suReseed s).rng }

theorem plain_setupSeq_derived (P : Params) (s : State) :
    plain (setupSeq P) s = fillNoise P (setupDerived P s) := by
  rw [plain_setupSeq, plain_deriveSeq, suReseed_eq]
  rfl

/-- The clamp writes two fields (R181). -/
theorem clamp_eq (p : Prm) : p.clamp = { p with
    minFrequency := if lt32 p.startFrequency p.minFrequency then p.startFrequency else p.minFrequency,
    slide := if lt32 p.slide p.deltaSlide then p.deltaSlide else p.slide } := by
  rw [← clamp_minFrequency, ← clamp_slide]
  unfold Prm.clamp
  dsimp only
  split_ifs <;> rfl

/-- What SETUP_SEQ leaves in memory and of the random source: the noise fill's draws, in their order, and no sample. -/
theorem setupNoise (P : Params) (s : State) :
    (∀ i, dlRead (fillNoise P (setupDerived P s)).mem i = 0#32) ∧
    (fillNoise P (setupDerived P s)).rng = (suReseed s).rng.advance 32 ∧
    ∀ j, j < 32 → ntRead (fillNoise P (setupDerived P s)).mem j = drawValue P ((suReseed s).rng.advance j) := by
  obtain ⟨heq, -, hline, hdraws⟩ := fillNoise_spec P (s := setupDerived P s) rfl
  refine ⟨fun i => (hline i).trans (dlRead_nil i), ?_, hdraws⟩
  rw [heq]
  rfl

/-- Settles O7: the run is cleared and derived from the clamped record, and then the noise table is filled. -/
theorem setupStartsARun : Obligations.SetupStartsARun := by
  intro s hrun
  have hexec := exec_setup hrun
  have hfill := (fillNoise_spec specParams (s := setupDerived specParams s) rfl).1
  obtain ⟨hline, hrng, hdraws⟩ := setupNoise specParams s
  rw [plain_setupSeq_derived] at hexec
  have hambient (hseed : s.prm.randSeed = 0#32) : (suReseed s).rng = s.rng.ambient := by
    rw [suReseed, if_neg (not_not.mpr hseed)]
    rfl
  have hseeded (hseed : s.prm.randSeed ≠ 0#32) : (suReseed s).rng = s.rng.reseed s.prm.randSeed := by
    rw [suReseed, if_pos hseed]
    rfl
  generalize fillNoise specParams (setupDerived specParams s) = u at *
  refine ⟨_, hexec, ?_, ?_, ?_, ?_, ?_, ?_, ?_, ?_, ?_, ?_, ?_, ?_, ?_, ?_, hline,
    fun hseed => ?_, fun hseed => ?_⟩
  · rw [hfill]
    rfl
  · rw [hfill]
    exact clamp_eq s.prm
  iterate 12 (· rw [hfill]; rfl)
  · rw [← hambient hseed]
    exact ⟨hrng, hdraws⟩
  · rw [← hseeded hseed]
    exact ⟨hrng, hdraws⟩

end Sys2Proof.Machine
end

section
/-! PROOFS. The outer sample, performed whole (40_control.md R143, R150, R151, R156): STEP is its 59 micro-operations, and
what they do to the run, the port and the TERM bits. -/

namespace Sys2Proof.Machine

/-! ## The micro-operations of a sample -/

theorem sampleSeq_executes : Executes
    [.psRepeat, .psArp, .psSlide, .psVibrato, .psPeriod, .psDuty, .psEnv, .psPhaserTap, .psHpSweep, .psSsclr]
    (plain (sampleSeq specParams)) :=
  .cons (fun _ => rfl) <| .cons (fun _ => rfl) <| .cons (fun _ => rfl) <| .cons (fun _ => rfl) <|
    .cons (fun _ => rfl) <| .cons (fun _ => rfl) <| .cons (fun _ => rfl) <| .cons (fun _ => rfl) <|
    .cons (fun _ => rfl) <| .cons (fun _ => rfl) executes_nil

theorem subSampleInstrs_executes : Executes subSampleInstrs (plain (subSampleSeq specParams)) :=
  .cons (fun _ => rfl) <| .cons (fun _ => rfl) <| .cons (fun _ => rfl) <| .cons (fun _ => rfl) <|
    .cons (fun _ => rfl) <| .cons (fun _ => rfl) executes_nil

theorem poOut_executes : Executes [.poOut] (poOut specParams) := fun _ => rfl

/-- A sample is its three parts: before the sub-samples, the eight of them, and the output. -/
theorem plainSample_eq (P : Params) :
    plainSample P = poOut P ∘ (plain (subSampleSeq P))^[supersample] ∘ plain (sampleSeq P) := by
  funext s
  unfold plainSample
  generalize plain (subSampleSeq P) = sub
  generalize plain (sampleSeq P) = before
  rfl

/-- All 59 micro-operations, with no exit between them (R156). -/
theorem sampleInstrs_executes : Executes sampleInstrs (plainSample specParams) := by
  rw [plainSample_eq]
  exact (sampleSeq_executes.append (subSampleInstrs_executes.replicate supersample)).append poOut_executes

/-! ## STEP -/

/-- The end of a sample, in full (R143, R148). -/
theorem endSample_eq (s : State) : endSample s =
    { s with run := if s.syn.gen then s.run else .done, seq := { s.seq with upc := 0x00#8 } } := by
  unfold endSample
  split_ifs <;> rfl

theorem endSample_setUpc (s : State) (u : BitVec 8) : endSample (s.setUpc u) = endSample s := by
  rw [endSample_eq, endSample_eq]
  rfl

/-- OUTER_SAMPLE, but for the id it leaves in `upc`. -/
theorem endSample_outerSample (P : Params) (s : State) :
    endSample (outerSample P s) = endSample ((plainSample P s).setSi 7#3) := by
  have hkeeps := (plainSample_uncontrolled P).keeps s
  rw [outerSample_eq_plain]
  generalize plainSample P s = u at hkeeps ⊢
  calc endSample (State.control ((s.setSi 7#3).setUpc 0x40#8) u)
      = endSample (((State.control s u).setSi 7#3).setUpc 0x40#8) := rfl
    _ = endSample (u.setSi 7#3) := by rw [endSample_setUpc, ← hkeeps]

/-- STEP in READY is the sample and its end. -/
theorem exec_step {s : State} (h : s.run = .ready) :
    exec .step s = .next (endSample ((plainSample specParams s).setSi 7#3)) := by
  rw [← endSample_outerSample]
  exact congrArg Host.Outcome.next (cmdStep_of_ready specParams h)

theorem plainSample_run (P : Params) (s : State) : (plainSample P s).run = s.run := by
  rw [(plainSample_uncontrolled P).keeps s]
  generalize plainSample P s = u
  rfl

/-- Settles O11: the instructions perform the sample's operations, and STEP performs them too. -/
theorem stepPerformsItsSequence : Obligations.StepPerformsItsSequence := by
  intro s h
  have hseq := sampleInstrs_executes s
  have hexec := exec_step h
  have hrun := plainSample_run specParams s
  generalize plainSample specParams s = u at hseq hexec hrun
  refine ⟨u, hseq, ?_⟩
  rw [hexec, endSample_eq, State.setSi_run, hrun, h]
  rfl

/-! ## What a micro-operation before PO_OUT may do to the run -/

/-- `t` comes of `s` by micro-operations before PO_OUT: no sample is emitted, no TERM bit is cleared, and none has been set
if `S.gen` is still 1 (R153). -/
structure Continues (s t : State) : Prop where
  frame : t = { s with
    termEnv := t.termEnv, termFloor := t.termFloor, syn := t.syn, mem := t.mem, seq := t.seq, rng := t.rng }
  gen : t.syn.gen = true → s.syn.gen = true ∧ t.termEnv = s.termEnv ∧ t.termFloor = s.termFloor
  env : s.termEnv = true → t.termEnv = true
  floor : s.termFloor = true → t.termFloor = true

theorem Continues.refl (s : State) : Continues s s := ⟨rfl, fun h => ⟨h, rfl, rfl⟩, id, id⟩

theorem Continues.trans {s t u : State} (h : Continues s t) (h' : Continues t u) : Continues s u where
  frame := h'.frame.trans (by rw [h.frame])
  gen := fun hgen => by
    obtain ⟨hgen', henv', hfloor'⟩ := h'.gen hgen
    obtain ⟨hgen'', henv, hfloor⟩ := h.gen hgen'
    exact ⟨hgen'', henv'.trans henv, hfloor'.trans hfloor⟩
  env := h'.env ∘ h.env
  floor := h'.floor ∘ h.floor

/-- A micro-operation that leaves `S.gen` and the TERM bits. -/
theorem continues_of_gen {s t : State} {y : Synth} {m : Memory} {q : Seq} {r : RngSource}
    (h : t = { s with syn := y, mem := m, seq := q, rng := r }) (hgen : y.gen = s.syn.gen) : Continues s t := by
  subst h
  exact ⟨rfl, fun h => ⟨hgen.symm.trans h, rfl, rfl⟩, id, id⟩

theorem psRepeat_continues (P : Params) (s : State) : Continues s (psRepeat P s) :=
  continues_of_gen (psRepeat_eq P s) (by unfold psRepeat; dsimp only; split_ifs <;> rfl)

theorem psArp_continues (P : Params) (s : State) : Continues s (psArp P s) :=
  continues_of_gen (psArp_eq P s) (by unfold psArp; dsimp only; split_ifs <;> rfl)

/-- PS_SLIDE either leaves `S.gen`, or ends the run with TERM_FLOOR (R212). -/
theorem psSlide_continues (P : Params) (s : State) : Continues s (psSlide P s) := by
  unfold psSlide
  dsimp only
  split_ifs
  · exact ⟨rfl, nofun, id, fun _ => rfl⟩
  · exact continues_of_gen rfl rfl
  · exact continues_of_gen rfl rfl

theorem psVibrato_continues (P : Params) (s : State) : Continues s (psVibrato P s) :=
  continues_of_gen (psVibrato_eq P s) (by unfold psVibrato; dsimp only; split_ifs <;> rfl)

theorem psPeriod_continues (P : Params) (s : State) : Continues s (psPeriod P s) :=
  continues_of_gen (psPeriod_eq P s) rfl

theorem psDuty_continues (P : Params) (s : State) : Continues s (psDuty P s) :=
  continues_of_gen (psDuty_eq P s) rfl

/-- The envelope either leaves `S.gen`, or ends the run with TERM_ENV (R231). -/
theorem envAdvance_continues (s : State) : Continues s (envAdvance s) := by
  cases hlen : (s.syn.envLen s.syn.envStage).slt (s.syn.envTime + 1#32) with
  | false =>
    rw [envAdvance_stay hlen]
    exact continues_of_gen rfl rfl
  | true =>
    by_cases hend : s.syn.envStage + 1#32 = 3#32
    · rw [envAdvance_end hlen hend]
      exact ⟨rfl, nofun, fun _ => rfl, id⟩
    · rw [envAdvance_next hlen hend]
      exact continues_of_gen rfl rfl

theorem psEnv_continues (P : Params) (s : State) : Continues s (psEnv P s) := by
  have hadvance := envAdvance_continues s
  unfold psEnv
  dsimp only
  generalize envAdvance s = t at hadvance
  exact hadvance.trans (continues_of_gen rfl rfl)

theorem psPhaserTap_continues (P : Params) (s : State) : Continues s (psPhaserTap P s) :=
  continues_of_gen (psPhaserTap_eq P s) rfl

theorem psHpSweep_continues (P : Params) (s : State) : Continues s (psHpSweep P s) :=
  continues_of_gen (psHpSweep_eq P s) (by unfold psHpSweep; split_ifs <;> rfl)

theorem psSsclr_continues (s : State) : Continues s (psSsclr s) := continues_of_gen (psSsclr_eq s) rfl

theorem ssPhase_continues (P : Params) (s : State) : Continues s (ssPhase P s) :=
  continues_of_gen (ssPhase_eq P s) rfl

theorem ssWave_continues (P : Params) (s : State) : Continues s (ssWave P s) := continues_of_gen (ssWave_eq P s) rfl

theorem ssLpf_continues (P : Params) (s : State) : Continues s (ssLpf P s) :=
  continues_of_gen (ssLpf_eq P s) (by unfold Synth.lowPass; dsimp only; split_ifs <;> rfl)

theorem ssHpf_continues (P : Params) (s : State) : Continues s (ssHpf P s) := continues_of_gen (ssHpf_eq P s) rfl

theorem ssPhaser_continues (P : Params) (s : State) : Continues s (ssPhaser P s) :=
  continues_of_gen (ssPhaser_eq P s) rfl

theorem ssAcc_continues (P : Params) (s : State) : Continues s (ssAcc P s) := continues_of_gen (ssAcc_eq P s) rfl

theorem sampleSeq_continues (P : Params) : ∀ m ∈ sampleSeq P, ∀ s, Continues s (m.2 s) := by
  simp only [sampleSeq, List.forall_mem_cons]
  exact ⟨psRepeat_continues P, psArp_continues P, psSlide_continues P, psVibrato_continues P, psPeriod_continues P,
    psDuty_continues P, psEnv_continues P, psPhaserTap_continues P, psHpSweep_continues P, psSsclr_continues, nofun⟩

theorem subSampleSeq_continues (P : Params) : ∀ m ∈ subSampleSeq P, ∀ s, Continues s (m.2 s) := by
  simp only [subSampleSeq, List.forall_mem_cons]
  exact ⟨ssPhase_continues P, ssWave_continues P, ssLpf_continues P, ssHpf_continues P, ssPhaser_continues P,
    ssAcc_continues P, nofun⟩

theorem plain_continues {l : List MicroOp} (h : ∀ m ∈ l, ∀ s, Continues s (m.2 s)) (s : State) :
    Continues s (plain l s) :=
  plain_keeps (I := Continues s) (fun m hm t ht => ht.trans (h m hm t)) s (.refl s)

theorem iterate_continues {f : State → State} (h : ∀ s, Continues s (f s)) : ∀ (n : Nat) (s : State),
    Continues s (f^[n] s)
  | 0, s => .refl s
  | n + 1, s => (h s).trans (iterate_continues h n (f s))

/-! ## What a sample does to the run -/

/-- `t` comes of `s` by one whole sample: one event, indexed by SAMPLE_COUNT, and no TERM bit cleared; a run that goes on
has set none and has not reached CAPACITY (R150, R153, R301). -/
structure MakesSample (s t : State) : Prop where
  frame : t = { s with
    termEnv := t.termEnv, termFloor := t.termFloor, termCap := t.termCap, sampleCount := s.sampleCount + 1#32,
    sampleOut := t.sampleOut, syn := t.syn, mem := t.mem, seq := t.seq,
    emitted := { index := s.sampleCount, value := t.sampleOut } :: s.emitted, rng := t.rng }
  gen : t.syn.gen = true → s.syn.gen = true ∧ t.termEnv = s.termEnv ∧ t.termFloor = s.termFloor ∧
    t.termCap = s.termCap ∧ s.sampleCount + 1#32 ≠ capacity
  env : s.termEnv = true → t.termEnv = true
  floor : s.termFloor = true → t.termFloor = true
  cap : s.termCap = true → t.termCap = true

/-- PO_OUT emits the sample, and reaching CAPACITY ends the run with TERM_CAP (R301). -/
theorem poOut_makesSample (P : Params) (s : State) : MakesSample s (poOut P s) := by
  rw [poOut_eq]
  refine ⟨rfl, fun hgen => ?_, id, id, fun hcap => by simp only [hcap, Bool.true_or]⟩
  obtain ⟨hgen', hcount⟩ := Bool.and_eq_true_iff.mp hgen
  have hne : s.sampleCount + 1#32 ≠ capacity := by simpa using hcount
  exact ⟨hgen', rfl, rfl, by simp [hne], hne⟩

theorem Continues.makesSample {s t u : State} (h : Continues s t) (h' : MakesSample t u) : MakesSample s u where
  frame := h'.frame.trans (by rw [h.frame])
  gen := fun hgen => by
    obtain ⟨hgen', henv', hfloor', hcap, hcount⟩ := h'.gen hgen
    obtain ⟨hgen'', henv, hfloor⟩ := h.gen hgen'
    rw [h.frame] at hcap hcount
    exact ⟨hgen'', henv'.trans henv, hfloor'.trans hfloor, hcap, hcount⟩
  env := h'.env ∘ h.env
  floor := h'.floor ∘ h.floor
  cap := fun hcap => h'.cap (by rw [h.frame]; exact hcap)

theorem plainSample_makesSample (P : Params) (s : State) : MakesSample s (plainSample P s) := by
  have hsample := plain_continues (sampleSeq_continues P) s
  have hsub := iterate_continues (plain_continues (subSampleSeq_continues P)) supersample (plain (sampleSeq P) s)
  rw [plainSample_eq, Function.comp_apply]
  exact (hsample.trans hsub).makesSample (poOut_makesSample P _)

/-- Settles O10: the sample's effect on the run, and its end in READY or DONE. -/
theorem stepEmitsOneSample : Obligations.StepEmitsOneSample := by
  intro s hready
  have hexec := exec_step hready
  have hmade := plainSample_makesSample specParams s
  have hrun := (plainSample_run specParams s).trans hready
  generalize plainSample specParams s = u at hexec hmade hrun
  obtain ⟨hframe, hgen, henv, hfloor, hcap⟩ := hmade
  rw [endSample_eq] at hexec
  refine ⟨_, u.sampleOut, hexec, ?_, rfl, fun hgoes => ?_, fun hends => if_neg (Bool.not_eq_true _ ▸ hends), henv,
    hfloor, hcap⟩
  · rw [hframe]
    rfl
  · obtain ⟨hgen', henv', hfloor', hcap', -⟩ := hgen hgoes
    exact ⟨(if_pos hgoes).trans hrun, hgen', henv', hfloor', hcap'⟩

end Sys2Proof.Machine
end

section
/-! PROOFS. The engine under RUN (40_control.md R148, R154): 59 steps of the machine are one outer sample and its end, and
the samples of a run end. -/

namespace Sys2Proof.Machine

/-! ## One micro-operation a step -/

/-- `n` steps from control part `c` perform `f` and end in control part `d`. -/
structure Steps (n : Nat) (c : State) (f : State → State) (d : State) : Prop where
  run : ∀ s, Host.Core.run Sys2Proof.core n (State.control c s) = .next (State.control d (f s))

/-- One step and then `n` more. -/
theorem run_succ {s t : State} (h : step s = .next t) (n : Nat) :
    Host.Core.run Sys2Proof.core (n + 1) s = Host.Core.run Sys2Proof.core n t := by
  have hstep : Sys2Proof.core.step s = .next t := h
  simp only [Host.Core.run, hstep]

theorem run_one {s t : State} (h : step s = .next t) : Host.Core.run Sys2Proof.core 1 s = .next t := run_succ h 0

/-- A run that goes on for `m` steps goes on from where it is then. -/
theorem run_add (n : Nat) : ∀ {m : Nat} {s t : State}, Host.Core.run Sys2Proof.core m s = .next t →
    Host.Core.run Sys2Proof.core (m + n) s = Host.Core.run Sys2Proof.core n t
  | 0, s, t, h => by
    injection h with h
    rw [Nat.zero_add, h]
  | m + 1, s, t, h => by
    rw [Nat.add_right_comm]
    simp only [Host.Core.run] at h ⊢
    cases hstep : Sys2Proof.core.step s with
    | next u =>
      simp only [hstep] at h ⊢
      exact run_add n h
    | fault r => exact nomatch r
    | refused r =>
      simp only [hstep] at h
      exact nomatch h

theorem Steps.trans {m n : Nat} {c d e : State} {f g : State → State} (hf : Steps m c f d) (hg : Steps n d g e) :
    Steps (m + n) c (g ∘ f) e :=
  ⟨fun s => (run_add n (hf.run s)).trans (hg.run (f s))⟩

/-- A micro-operation of OUTER_SAMPLE in `upc` is performed, and the sequencer moves on. -/
theorem step_microOp {u : BitVec 8} {f : State → State} (hmem : (u, f) ∈ microprogram) {s : State}
    (hupc : s.seq.upc = u) (hu : u ≠ 0x00#8) : step s = .next (advance (f s)) := by
  obtain ⟨i, hdec, hexec⟩ := microprogram_exec _ hmem
  have hne : s.seq.upc ≠ 0x00#8 := by rwa [hupc]
  have hfetch : fetch s = .run i s := by
    rw [fetch, if_neg hne, hupc, hdec]
  rw [step_eq_perform, hfetch, perform, hexec]
  rfl

/-- But for the end of a sample, the sequencer reads and writes the control part alone. -/
theorem advance_control {c : State} (hc : c.seq.upc ≠ 0x40#8) (s : State) :
    advance (State.control c s) = State.control (advance c) s := by
  have hupc : (State.control c s).seq.upc = c.seq.upc := rfl
  have hsi : (State.control c s).seq.si = c.seq.si := rfl
  unfold advance
  rw [hupc, hsi]
  split
  · rfl
  · rfl
  · rfl
  · split_ifs <;> rfl
  · exact absurd (BitVec.eq_of_toNat_eq ‹_›) hc
  · rfl

/-- One step of the engine inside a sample. -/
theorem steps_microOp {u : BitVec 8} {f : State → State} (hmem : (u, f) ∈ microprogram) {c d : State}
    (hu : u ≠ 0x00#8 ∧ u ≠ 0x40#8) (hd : advance (c.setUpc u) = d) : Steps 1 (c.setUpc u) f d := by
  refine ⟨fun s => ?_⟩
  have hf : Uncontrolled f := microprogram_uncontrolled _ hmem
  have hstep : step (State.control (c.setUpc u) s) = .next (advance (f (State.control (c.setUpc u) s))) :=
    step_microOp hmem rfl hu.1
  have hadvance : advance (State.control (c.setUpc u) (f s)) = State.control (advance (c.setUpc u)) (f s) :=
    advance_control hu.2 (f s)
  rw [run_one hstep, hf, hadvance, hd]

/-- The sequencer leads from each id of a sequence to the next, and from the last one to the control part `d`. -/
def Leads (c d : State) : List MicroOp → Prop
  | [] => False
  | [(u, _)] => (u ≠ 0x00#8 ∧ u ≠ 0x40#8) ∧ advance (c.setUpc u) = d
  | (u, _) :: (v, f) :: rest =>
    (u ≠ 0x00#8 ∧ u ≠ 0x40#8) ∧ advance (c.setUpc u) = c.setUpc v ∧ Leads c d ((v, f) :: rest)

/-- A sequence is performed in as many steps as it has micro-operations. -/
theorem steps_plain {c d : State} : ∀ {u : BitVec 8} {f : State → State} {rest : List MicroOp},
    (∀ m ∈ (u, f) :: rest, m ∈ microprogram) → Leads c d ((u, f) :: rest) →
    Steps (rest.length + 1) (c.setUpc u) (plain ((u, f) :: rest)) d
  | _, _, [], hmem, ⟨hu, hd⟩ => steps_microOp (hmem _ List.mem_cons_self) hu hd
  | _, _, (_, _) :: rest, hmem, ⟨hu, hnext, hleads⟩ => by
    have hfirst := steps_microOp (hmem _ List.mem_cons_self) hu hnext
    have hlast := steps_plain (fun m hm => hmem m (List.mem_cons_of_mem _ hm)) hleads
    rw [Nat.add_comm]
    exact hfirst.trans hlast

/-! ## The sample -/

theorem leads_sampleSeq (c : State) : Leads c ((c.setSi 0#3).setUpc 0x30#8) (sampleSeq specParams) := by
  simp only [sampleSeq, Leads]
  exact ⟨by decide, rfl, by decide, rfl, by decide, rfl, by decide, rfl, by decide, rfl, by decide, rfl, by decide, rfl,
    by decide, rfl, by decide, rfl, by decide, rfl⟩

theorem leads_subSampleSeq (c : State) (k : BitVec 3) :
    Leads (c.setSi k) (if k = 7#3 then (c.setSi k).setUpc 0x40#8 else (c.setSi (k + 1#3)).setUpc 0x30#8)
      (subSampleSeq specParams) := by
  simp only [subSampleSeq, Leads]
  exact ⟨by decide, rfl, by decide, rfl, by decide, rfl, by decide, rfl, by decide, rfl, by decide, rfl⟩

theorem steps_sampleSeq (c : State) :
    Steps 10 (c.setUpc 0x20#8) (plain (sampleSeq specParams)) ((c.setSi 0#3).setUpc 0x30#8) :=
  steps_plain (fun _ hm => List.mem_append_left _ (List.mem_append_left _ hm)) (leads_sampleSeq c)

/-- A sub-sample is followed by the next one, or the last one by the output. -/
theorem steps_subSampleSeq (c : State) (k : BitVec 3) :
    Steps 6 ((c.setSi k).setUpc 0x30#8) (plain (subSampleSeq specParams))
      (if k = 7#3 then (c.setSi k).setUpc 0x40#8 else (c.setSi (k + 1#3)).setUpc 0x30#8) :=
  steps_plain (fun _ hm => List.mem_append_left _ (List.mem_append_right _ hm)) (leads_subSampleSeq c k)

theorem steps_subSample (c : State) {k : BitVec 3} (hk : k ≠ 7#3) :
    Steps 6 ((c.setSi k).setUpc 0x30#8) (plain (subSampleSeq specParams)) ((c.setSi (k + 1#3)).setUpc 0x30#8) := by
  have hsteps := steps_subSampleSeq c k
  rwa [if_neg hk] at hsteps

/-- The eight sub-samples. -/
theorem steps_subSamples (c : State) : Steps 48 ((c.setSi 0#3).setUpc 0x30#8)
    (plain (subSampleSeq specParams))^[supersample] ((c.setSi 7#3).setUpc 0x40#8) := by
  have hnext {k : BitVec 3} (hk : k ≠ 7#3) := steps_subSample c hk
  have hlast := steps_subSampleSeq c 7#3
  generalize plain (subSampleSeq specParams) = sub at hnext hlast
  exact (hnext (k := 0#3) (by decide)).trans <| (hnext (k := 1#3) (by decide)).trans <|
    (hnext (k := 2#3) (by decide)).trans <| (hnext (k := 3#3) (by decide)).trans <|
    (hnext (k := 4#3) (by decide)).trans <| (hnext (k := 5#3) (by decide)).trans <|
    (hnext (k := 6#3) (by decide)).trans hlast

/-- 59 steps from the first micro-operation of a sample are the sample and its end. -/
theorem run_sample {s : State} (hupc : s.seq.upc = 0x20#8) :
    Host.Core.run Sys2Proof.core 59 s = .next (endSample (outerSample specParams s)) := by
  have hbefore := ((steps_sampleSeq s).trans (steps_subSamples s)).run s
  have hsample := congrFun (plainSample_eq specParams) s
  rw [setUpc_of_eq hupc, control_self] at hbefore
  rw [Function.comp_apply] at hsample
  generalize ((plain (subSampleSeq specParams))^[supersample] ∘ plain (sampleSeq specParams)) s = t at hbefore hsample
  have hmem : (0x40#8, poOut specParams) ∈ microprogram := List.mem_append_right _ List.mem_cons_self
  have hlast := step_microOp hmem (s := State.control ((s.setSi 7#3).setUpc 0x40#8) t) rfl (by decide)
  rw [poOut_uncontrolled, ← hsample, ← outerSample_eq_plain] at hlast
  have hend : advance (outerSample specParams s) = endSample (outerSample specParams s) := by
    rw [outerSample_eq_plain]
    generalize plainSample specParams s = u
    rfl
  rw [hend] at hlast
  exact (run_add 1 hbefore).trans (run_one hlast)

/-- The engine moves: a step from the boundary is the first micro-operation of a sample (R148). -/
theorem step_boundary {s : State} (hupc : s.seq.upc = 0x00#8) (hrun : s.run = .running)
    (hturn : s.inputs = [] ∨ s.hostTurn = false) : step s = step ((arbitrate s).setUpc 0x20#8) := by
  have hfetch : fetch s = startSample (arbitrate s) := by
    rw [fetch, if_pos hupc, fetchBoundary]
    split
    · exact if_pos hrun
    · next hinputs =>
      have hhost : s.hostTurn = false := hturn.resolve_left (by rw [hinputs]; exact List.cons_ne_nil _ _)
      exact if_pos ⟨hrun, hhost⟩
  rw [step_eq_perform, step_eq_perform, hfetch]
  rfl

/-- An engine transition, whole: the sample of the state in which its first micro-operation is performed. -/
theorem run_transition {s : State} (hupc : s.seq.upc = 0x00#8) (hrun : s.run = .running)
    (hturn : s.inputs = [] ∨ s.hostTurn = false) :
    Host.Core.run Sys2Proof.core 59 s =
      .next (endSample ((plainSample specParams ((arbitrate s).setUpc 0x20#8)).setSi 7#3)) := by
  have hsame : Sys2Proof.core.step s = Sys2Proof.core.step ((arbitrate s).setUpc 0x20#8) :=
    step_boundary hupc hrun hturn
  have hsample := run_sample (s := (arbitrate s).setUpc 0x20#8) rfl
  rw [← endSample_outerSample, ← hsample]
  simp only [Host.Core.run, hsame]

/-- Settles O48: the sample does not read the control part, in which alone the two states differ. -/
theorem engineTransitionIsOneSample : Obligations.EngineTransitionIsOneSample := by
  intro s hupc hrun hturn
  have hexec := exec_step (s := { s with run := .ready }) rfl
  have htransition := run_transition hupc hrun hturn
  have hkeeps := (plainSample_uncontrolled specParams).keeps { s with run := .ready }
  have hsame : plainSample specParams ((arbitrate s).setUpc 0x20#8) = State.control ((arbitrate s).setUpc 0x20#8)
      (plainSample specParams { s with run := .ready }) :=
    plainSample_uncontrolled specParams ((arbitrate s).setUpc 0x20#8) { s with run := .ready }
  rw [hsame] at htransition
  generalize plainSample specParams { s with run := .ready } = u at hexec htransition hkeeps
  refine ⟨_, hexec, htransition.trans (congrArg Host.Outcome.next ?_)⟩
  have hrun' : ((State.control ((arbitrate s).setUpc 0x20#8) u).setSi 7#3).run = .running := hrun
  rw [endSample_eq, endSample_eq, hrun', hkeeps]
  rfl

/-! ## The end of a run -/

/-- What an engine transition leaves of what the next one relies on. -/
theorem transition_spec {s : State} (hupc : s.seq.upc = 0x00#8) (hrun : s.run = .running) (hinputs : s.inputs = []) :
    ∃ t, Host.Core.run Sys2Proof.core 59 s = .next t ∧ t.seq.upc = 0x00#8 ∧ t.inputs = [] ∧
      t.sampleCount = s.sampleCount + 1#32 ∧
      (t.syn.gen = true → t.run = .running ∧ s.sampleCount + 1#32 ≠ capacity) ∧
      (t.syn.gen = false → t.run = .done) := by
  have htransition := run_transition hupc hrun (.inl hinputs)
  obtain ⟨hframe, hgen, -, -, -⟩ := plainSample_makesSample specParams ((arbitrate s).setUpc 0x20#8)
  generalize plainSample specParams ((arbitrate s).setUpc 0x20#8) = u at htransition hframe hgen
  have hrun' : u.run = .running := by rw [hframe]; exact hrun
  have hinputs' : u.inputs = [] := by rw [hframe]; exact hinputs
  have hcount : u.sampleCount = s.sampleCount + 1#32 := by rw [hframe]; rfl
  rw [endSample_eq] at htransition
  refine ⟨_, htransition, rfl, hinputs', hcount, fun hgoes => ⟨(if_pos hgoes).trans hrun', ?_⟩,
    fun hends => if_neg (Bool.not_eq_true _ ▸ hends)⟩
  obtain ⟨-, -, -, -, hne⟩ := hgen hgoes
  exact hne

/-- A run that goes on after its next sample has not reached CAPACITY with it. -/
theorem toNat_count_lt {n : I32} (h : n.toNat < 441000) (hne : n + 1#32 ≠ capacity) : n.toNat + 1 < 441000 := by
  have hsucc := toNat_count_succ h
  have hcap : (n + 1#32).toNat ≠ 441000 := fun he => hne (BitVec.eq_of_toNat_eq he)
  omega

/-- A run with at most `n` samples left of CAPACITY ends, by induction on `n`: each engine transition makes one. -/
theorem run_ends : ∀ (n : Nat) {s : State}, s.seq.upc = 0x00#8 → s.run = .running → s.inputs = [] →
    s.sampleCount.toNat < 441000 → 441000 ≤ s.sampleCount.toNat + n →
    ∃ k t, k ≤ 59 * n ∧ Host.Core.run Sys2Proof.core k s = .next t ∧ t.run = .done ∧
      t.sampleCount.toNat ≤ 441000 ∧ t.syn.gen = false
  | 0, s, _, _, _, hlt, hn => absurd hn (by omega)
  | n + 1, s, hupc, hrun, hinputs, hlt, hn => by
    obtain ⟨u, hsteps, hupc', hinputs', hcount, hgoes, hends⟩ := transition_spec hupc hrun hinputs
    have hsucc : u.sampleCount.toNat = s.sampleCount.toNat + 1 := by rw [hcount, toNat_count_succ hlt]
    cases hgen : u.syn.gen with
    | false => exact ⟨59, u, by omega, hsteps, hends hgen, by omega, hgen⟩
    | true =>
      obtain ⟨hrun', hne⟩ := hgoes hgen
      have hlt' := toNat_count_lt hlt hne
      obtain ⟨k, t, hk, hsteps', ht⟩ := run_ends n hupc' hrun' hinputs' (by omega) (by omega)
      exact ⟨59 + k, t, by omega, (run_add k hsteps).trans hsteps', ht⟩

/-- Settles O52: at most as many engine transitions follow as samples are left of CAPACITY. -/
theorem runEndsWithinCapacity : Obligations.RunEndsWithinCapacity :=
  fun s hupc hrun hinputs hlt => run_ends (441000 - s.sampleCount.toNat) hupc hrun hinputs hlt (by omega)

end Sys2Proof.Machine
end

section
/-! PROOFS. With another waveform than noise a sample reads neither the random source nor the noise table, and makes no
draw (40_control.md R155; 45_oscillator.md R263): two runs that differ in them alone stay alike, their delay lines too. -/

namespace Sys2Proof.Machine

/-- `s` with another memory and another random source. -/
def State.withNoise (m : Memory) (r : RngSource) (s : State) : State := { s with mem := m, rng := r }

theorem withNoise_self (s : State) : State.withNoise s.mem s.rng s = s := rfl

/-! ## Micro-operations that use neither memory nor the random source -/

/-- With another waveform than noise, an operation commutes with every change of memory and of the random source. -/
def NoiseFree (f : State → State) : Prop := ∀ (m : Memory) (r : RngSource) (s : State), s.prm.waveType ≠ 3#32 →
  f (State.withNoise m r s) = State.withNoise m r (f s)

theorem NoiseFree.keeps {f : State → State} (hf : NoiseFree f) {s : State} (hwave : s.prm.waveType ≠ 3#32) :
    f s = State.withNoise s.mem s.rng (f s) := by
  conv_lhs => rw [← withNoise_self s]
  exact hf s.mem s.rng s hwave

theorem psRepeat_noiseFree (P : Params) : NoiseFree (psRepeat P) := by
  intro m r s _; unfold psRepeat; dsimp only; rw [apply_ite (State.withNoise m r)]; rfl

theorem psArp_noiseFree (P : Params) : NoiseFree (psArp P) := by
  intro m r s _; unfold psArp; dsimp only; rw [apply_ite (State.withNoise m r)]; rfl

theorem psSlide_noiseFree (P : Params) : NoiseFree (psSlide P) := by
  intro m r s _; unfold psSlide; dsimp only
  rw [apply_ite (State.withNoise m r), apply_ite (State.withNoise m r)]; rfl

theorem psVibrato_noiseFree (P : Params) : NoiseFree (psVibrato P) := by
  intro m r s _; unfold psVibrato; dsimp only; rw [apply_ite (State.withNoise m r)]; rfl

theorem psPeriod_noiseFree (P : Params) : NoiseFree (psPeriod P) := fun _ _ _ _ => rfl
theorem psDuty_noiseFree (P : Params) : NoiseFree (psDuty P) := fun _ _ _ _ => rfl

theorem envAdvance_noiseFree : NoiseFree envAdvance := by
  intro m r s _; unfold envAdvance; dsimp only
  rw [apply_ite (State.withNoise m r), apply_ite (State.withNoise m r)]; rfl

theorem psEnv_noiseFree (P : Params) : NoiseFree (psEnv P) := by
  intro m r s hwave; unfold psEnv; rw [envAdvance_noiseFree m r s hwave]; rfl

theorem psPhaserTap_noiseFree (P : Params) : NoiseFree (psPhaserTap P) := fun _ _ _ _ => rfl

theorem psHpSweep_noiseFree (P : Params) : NoiseFree (psHpSweep P) := by
  intro m r s _; unfold psHpSweep; rw [apply_ite (State.withNoise m r)]; rfl

theorem psSsclr_noiseFree : NoiseFree psSsclr := fun _ _ _ _ => rfl

/-- Only the noise waveform refills the noise table at a wrap (R262). -/
theorem ssPhase_of_other (P : Params) {s : State} (hwave : s.prm.waveType ≠ 3#32) :
    ssPhase P s = s.setSyn { s.syn with
      phase := if s.syn.period.sle (s.syn.phase + 1#32) then modI32 (s.syn.phase + 1#32) s.syn.period
        else s.syn.phase + 1#32 } := by
  unfold ssPhase
  dsimp only
  rw [if_neg hwave]
  split_ifs <;> rfl

theorem ssPhase_noiseFree (P : Params) : NoiseFree (ssPhase P) := by
  intro m r s hwave
  rw [ssPhase_of_other P hwave, ssPhase_of_other P (s := State.withNoise m r s) hwave]
  rfl

/-- Only the noise case of SS_WAVE reads the noise table (R263, R265). -/
theorem ssWave_noiseFree (P : Params) : NoiseFree (ssWave P) := by
  intro m r s hwave
  have hne : s.prm.waveType.toNat ≠ 3 := fun he => hwave (BitVec.eq_of_toNat_eq he)
  have hsame : (State.withNoise m r s).prm.waveType.toNat = s.prm.waveType.toNat := rfl
  unfold ssWave
  dsimp only
  rw [hsame]
  generalize s.prm.waveType.toNat = n at hne
  rcases n with _ | _ | _ | _ | n
  case succ.succ.succ.zero => exact absurd rfl hne
  all_goals rfl

theorem ssLpf_noiseFree (P : Params) : NoiseFree (ssLpf P) := fun _ _ _ _ => rfl
theorem ssHpf_noiseFree (P : Params) : NoiseFree (ssHpf P) := fun _ _ _ _ => rfl
theorem ssAcc_noiseFree (P : Params) : NoiseFree (ssAcc P) := fun _ _ _ _ => rfl

theorem poOut_noiseFree (P : Params) : NoiseFree (poOut P) := by
  intro m r s _; rw [poOut_eq, poOut_eq]; rfl

/-! ## Two runs that differ in noise alone -/

/-- `m` may stand for the memory of `s`: the waveform is not noise, and the delay lines read alike. -/
structure NoiseApart (s : State) (m : Memory) : Prop where
  wave : s.prm.waveType ≠ 3#32
  wf : s.mem.wf = true
  wf_other : m.wf = true
  line : ∀ i, dlRead m i = dlRead s.mem i

/-- From two states that differ in noise alone, an operation gives two that do, and makes no draw. -/
def IgnoresNoise (f : State → State) : Prop := ∀ (s : State) (m : Memory) (r : RngSource), NoiseApart s m →
  (f s).rng = s.rng ∧ ∃ m', NoiseApart (f s) m' ∧ f (State.withNoise m r s) = State.withNoise m' r (f s)

theorem ignoresNoise_id : IgnoresNoise id := fun _ m _ h => ⟨rfl, m, h, rfl⟩

theorem IgnoresNoise.comp {f g : State → State} (hg : IgnoresNoise g) (hf : IgnoresNoise f) : IgnoresNoise (g ∘ f) := by
  intro s m r h
  obtain ⟨hrng, m', h', heq⟩ := hf s m r h
  obtain ⟨hrng', m'', h'', heq'⟩ := hg (f s) m' r h'
  exact ⟨hrng'.trans hrng, m'', h'', (congrArg g heq).trans heq'⟩

theorem IgnoresNoise.iterate {f : State → State} (hf : IgnoresNoise f) : ∀ n : Nat, IgnoresNoise f^[n]
  | 0 => ignoresNoise_id
  | n + 1 => (hf.iterate n).comp hf

theorem plain_ignoresNoise : ∀ {l : List MicroOp}, (∀ m ∈ l, IgnoresNoise m.2) → IgnoresNoise (plain l)
  | [], _ => ignoresNoise_id
  | m :: _, h =>
    (plain_ignoresNoise fun m' hm => h m' (List.mem_cons_of_mem _ hm)).comp (h m List.mem_cons_self)

theorem NoiseFree.ignoresNoise {f : State → State} (hf : NoiseFree f) (hprm : ∀ s, (f s).prm = s.prm) :
    IgnoresNoise f := by
  intro s m r h
  have hkeeps := hf.keeps h.wave
  have hmem : (f s).mem = s.mem := by rw [hkeeps]; rfl
  have hrng : (f s).rng = s.rng := by rw [hkeeps]; rfl
  exact ⟨hrng, m, ⟨by rw [hprm]; exact h.wave, by rw [hmem]; exact h.wf, h.wf_other, by rw [hmem]; exact h.line⟩,
    hf m r s h.wave⟩

theorem Continues.prm {s t : State} (h : Continues s t) : t.prm = s.prm := by rw [h.frame]

/-- SS_PHASER writes the same sample into both delay lines, and reads the same tap of them (R290). -/
theorem ssPhaser_ignoresNoise (P : Params) : IgnoresNoise (ssPhaser P) := by
  intro s m r h
  have hline (i k : I32) (v : F32) : dlRead (dlWrite m i v) k = dlRead (dlWrite s.mem i v) k := by
    rw [dlRead_dlWrite h.wf_other, dlRead_dlWrite h.wf, h.line]
  refine ⟨rfl, dlWrite m (s.syn.ipp &&& 1023#32) s.seq.sample,
    ⟨h.wave, dlWrite_wf h.wf, dlWrite_wf h.wf_other, fun k => hline _ k _⟩, ?_⟩
  have hsample : (ssPhaser P (State.withNoise m r s)).seq.sample = (ssPhaser P s).seq.sample :=
    congrArg (add32 P s.seq.sample) (hline _ _ _)
  rw [ssPhaser_eq, ssPhaser_eq P s, hsample]
  rfl

theorem sampleSeq_ignoresNoise (P : Params) : ∀ m ∈ sampleSeq P, IgnoresNoise m.2 := by
  have hprm := fun m hm s => (sampleSeq_continues P m hm s).prm
  simp only [sampleSeq, List.forall_mem_cons] at hprm ⊢
  obtain ⟨hrep, harp, hslide, hvib, hperiod, hduty, henv, htap, hsweep, hclr, -⟩ := hprm
  exact ⟨(psRepeat_noiseFree P).ignoresNoise hrep, (psArp_noiseFree P).ignoresNoise harp,
    (psSlide_noiseFree P).ignoresNoise hslide, (psVibrato_noiseFree P).ignoresNoise hvib,
    (psPeriod_noiseFree P).ignoresNoise hperiod, (psDuty_noiseFree P).ignoresNoise hduty,
    (psEnv_noiseFree P).ignoresNoise henv, (psPhaserTap_noiseFree P).ignoresNoise htap,
    (psHpSweep_noiseFree P).ignoresNoise hsweep, psSsclr_noiseFree.ignoresNoise hclr, nofun⟩

theorem subSampleSeq_ignoresNoise (P : Params) : ∀ m ∈ subSampleSeq P, IgnoresNoise m.2 := by
  have hprm := fun m hm s => (subSampleSeq_continues P m hm s).prm
  simp only [subSampleSeq, List.forall_mem_cons] at hprm ⊢
  obtain ⟨hphase, hwave, hlpf, hhpf, -, hacc, -⟩ := hprm
  exact ⟨(ssPhase_noiseFree P).ignoresNoise hphase, (ssWave_noiseFree P).ignoresNoise hwave,
    (ssLpf_noiseFree P).ignoresNoise hlpf, (ssHpf_noiseFree P).ignoresNoise hhpf, ssPhaser_ignoresNoise P,
    (ssAcc_noiseFree P).ignoresNoise hacc, nofun⟩

theorem plainSample_ignoresNoise (P : Params) : IgnoresNoise (plainSample P) := by
  have hbefore := plain_ignoresNoise (sampleSeq_ignoresNoise P)
  have hsub := (plain_ignoresNoise (subSampleSeq_ignoresNoise P)).iterate supersample
  have hout : IgnoresNoise (poOut P) := (poOut_noiseFree P).ignoresNoise fun s => by rw [poOut_eq]
  rw [plainSample_eq]
  exact hout.comp (hsub.comp hbefore)

/-- Settles O53: the sample ignores noise, and its end reads neither memory nor the random source. -/
theorem otherWaveformsIgnoreNoise : Obligations.OtherWaveformsIgnoreNoise := by
  intro s m r hready hwave hwf hwf' hline
  have hexec := exec_step hready
  have hexec' := exec_step (s := State.withNoise m r s) hready
  obtain ⟨hrng, m', hapart, heq⟩ := plainSample_ignoresNoise specParams s m r ⟨hwave, hwf, hwf', hline⟩
  rw [heq] at hexec'
  generalize plainSample specParams s = u at hexec hexec' hrng hapart
  rw [endSample_eq] at hexec hexec'
  exact ⟨_, _, hexec, hexec', rfl, hrng, hapart.line⟩

end Sys2Proof.Machine
end

section
/-! PROOFS. The setup micro-operations (41_setup.md R180 to R192): each writes the registers its rule lists, and nothing
else. -/

namespace Sys2Proof.Machine

/-! ## The random source -/

theorem suReseed_of_zero {s : State} (h : s.prm.randSeed = 0#32) : suReseed s = rngAmbient s := by
  rw [suReseed, if_neg (not_not.mpr h)]

theorem suReseed_of_ne_zero {s : State} (h : s.prm.randSeed ≠ 0#32) : suReseed s = rngReseed s.prm.randSeed s := by
  rw [suReseed, if_pos h]

/-- Settles O20: the two cases of the seed, and the draws that each source gives. -/
theorem reseedOnlyForNonzeroSeed : Obligations.ReseedOnlyForNonzeroSeed :=
  ⟨rfl, fun s =>
    ⟨fun hzero => ⟨congrArg Host.Outcome.next (suReseed_of_zero hzero), drawValue_ambient specParams s.rng⟩,
      fun hseed => ⟨congrArg Host.Outcome.next (suReseed_of_ne_zero hseed),
        drawValue_reseed specParams s.rng s.prm.randSeed⟩⟩⟩

/-- Settles O26: what the noise fill does, with the bytes it leaves and the range of a draw. -/
theorem noiseFillDrawsInOrder : Obligations.NoiseFillDrawsInOrder := by
  refine ⟨rfl, fun s hwf => ?_⟩
  obtain ⟨-, -, -, hdraws⟩ := fillNoise_spec specParams hwf
  refine ⟨suNoise specParams s, rfl, suNoise_eq specParams s, fun a ha => ?outside, fun j hj => ?slot⟩
  case outside => exact readByte_drawRange specParams noiseLen 0 s hwf a ha
  case slot =>
    have hdraw : ntRead (suNoise specParams s).mem j = drawValue specParams (s.rng.advance j) := hdraws j hj
    rw [hdraw]
    exact ⟨rfl, inUnit_unitDraw _⟩

/-! ## The clamp -/

/-- A record that is in order is left as it is. -/
theorem clamp_of_ordered {p : Prm} (hmin : lt32 p.startFrequency p.minFrequency = false)
    (hslide : lt32 p.slide p.deltaSlide = false) : p.clamp = p := by
  rw [clamp_eq, hmin, hslide]
  rfl

/-- The field a clamp overwrites becomes equal to its bound, and no number is below itself. -/
theorem clamp_ordered (p : Prm) : lt32 p.clamp.startFrequency p.clamp.minFrequency = false ∧
    lt32 p.clamp.slide p.clamp.deltaSlide = false := by
  rw [clamp_startFrequency, clamp_minFrequency, clamp_slide, clamp_deltaSlide]
  constructor
  · split_ifs with habove
    · exact lt32_irrefl _
    · exact Bool.eq_false_of_not_eq_true habove
  · split_ifs with hbelow
    · exact lt32_irrefl _
    · exact Bool.eq_false_of_not_eq_true hbelow

/-- Settles O21: the clamp orders the record, and leaves an ordered one. -/
theorem clampOrdersTheRecord : Obligations.ClampOrdersTheRecord := by
  refine ⟨rfl, fun s => ?_⟩
  obtain ⟨hmin, hslide⟩ := clamp_ordered s.prm
  have hagain : suClamp (suClamp s) = suClamp s := by
    rw [suClamp, suClamp, State.setPrm_prm, clamp_of_ordered hmin hslide]
    rfl
  refine ⟨suClamp s, rfl, ?_, hmin, hslide, congrArg Host.Outcome.next hagain⟩
  rw [suClamp_eq, clamp_eq]

/-! ## The clear -/

theorem words_zero_true : (Synth.zero true).words = List.replicate 39 0#32 ++ [1#32] := by decide

/-- Settles O22: the clear is one update, and an empty memory reads 0 in every slot. -/
theorem clearZeroesTheRun : Obligations.ClearZeroesTheRun :=
  ⟨rfl, fun s => ⟨suClear s, rfl, rfl, words_zero_true, dlRead_nil, fun _ hj => ntRead_nil hj⟩⟩

/-! ## The derivations -/

/-- Settles O23: each of the four writes its derivation's registers, by the formulas at the default constants. -/
theorem frequencyDerivations : Obligations.FrequencyDerivations :=
  ⟨rfl, fun s =>
    ⟨congrArg Host.Outcome.next (suPeriod_eq specParams s), congrArg Host.Outcome.next (suSlide_eq specParams s),
      congrArg Host.Outcome.next (suArp_eq specParams s), congrArg Host.Outcome.next (suDuty_eq specParams s)⟩⟩

/-- Settles O24: each of the two writes its derivation's registers, by the formulas at the default constants. -/
theorem filterAndVibratoDerivations : Obligations.FilterAndVibratoDerivations := fun s =>
  ⟨congrArg Host.Outcome.next (suFilter_eq specParams s), congrArg Host.Outcome.next (suVibrato_eq specParams s)⟩

/-- The magnitude of an integer by subtraction from 0, as R190 writes it. -/
theorem absI32_eq (v : I32) : absI32 v = if v.slt 0#32 then 0#32 - v else v := by
  rw [BitVec.zero_sub]
  rfl

/-- Settles O25: each writes its derivation's registers; the tap is the magnitude of the truncated offset. -/
theorem envelopePhaserRepeatDerivations : Obligations.EnvelopePhaserRepeatDerivations := by
  refine ⟨rfl, fun s => ⟨congrArg Host.Outcome.next (suEnvlen_eq specParams s), ?phaser,
    congrArg Host.Outcome.next (suRepeat_eq specParams s)⟩⟩
  have hphaser := suPhaser_eq specParams s
  rw [Synth.derivePhaser, absI32_eq] at hphaser
  exact congrArg Host.Outcome.next hphaser

end Sys2Proof.Machine
end

section
/-! PROOFS. The frequency path (42_frequency_lfo.md R210 to R214): each micro-operation from PS_REPEAT to PS_PERIOD has
one equation per case of its rule. -/

namespace Sys2Proof.Machine

/-! ## Counters with a limit -/

/-- A limit of 0 is never reached; any other is by signed compare. -/
theorem limitReached_iff {limit time : I32} :
    limitReached limit time = true ↔ limit ≠ 0#32 ∧ limit.toInt ≤ time.toInt := by
  rw [limitReached, Bool.and_eq_true, bne_iff_ne, BitVec.sle_iff_toInt_le]

section
variable {P : Params} {s : State}

/-! ## PS_REPEAT -/

theorem psRepeat_of_not_reached (h : ¬limitReached s.syn.repLimit (s.syn.repTime + 1#32) = true) :
    psRepeat P s = { s with syn := { s.syn with repTime := s.syn.repTime + 1#32 } } :=
  if_neg h

theorem psRepeat_of_reached (h : limitReached s.syn.repLimit (s.syn.repTime + 1#32) = true) :
    psRepeat P s = { s with syn := Synth.rederive P s.prm { s.syn with repTime := 0#32 } } :=
  if_pos h

/-- The re-derivation writes the registers of R183 to R186, and restarts the arpeggio counter. -/
theorem rederive_frame (P : Params) (p : Prm) (y : Synth) : y.rederive P p =
    { y with
      fperiod := (y.rederive P p).fperiod, period := (y.rederive P p).period
      fmaxperiod := (y.rederive P p).fmaxperiod, fslide := (y.rederive P p).fslide
      fdslide := (y.rederive P p).fdslide, squareDuty := (y.rederive P p).squareDuty
      squareSlide := (y.rederive P p).squareSlide, arpMod := (y.rederive P p).arpMod
      arpLimit := (y.rederive P p).arpLimit, arpTime := 0#32 } := by
  simp only [Synth.rederive, Synth.derivePeriod, Synth.deriveSlide, Synth.deriveDuty, Synth.deriveArp]

/-- The micro-operations of a repeat boundary, in the order of R210. -/
def rederiveSeq (P : Params) : List MicroOp :=
  [(0x13#8, suPeriod P), (0x14#8, suSlide P), (0x16#8, suDuty P), (0x15#8, suArp P)]

theorem plain_rederiveSeq (P : Params) (s : State) :
    plain (rederiveSeq P) s = s.setSyn (s.syn.rederive P s.prm) := by
  simp only [rederiveSeq, plain, suPeriod, suSlide, suDuty, suArp, setSyn_setSyn, State.setSyn_syn, State.setSyn_prm,
    Synth.rederive]

theorem execSeq_rederive (s : State) : execSeq [.suPeriod, .suSlide, .suDuty, .suArp] s =
    .next (s.setSyn (s.syn.rederive specParams s.prm)) := by
  have hops : Executes [.suPeriod, .suSlide, .suDuty, .suArp] (plain (rederiveSeq specParams)) :=
    .cons (fun _ => rfl) <| .cons (fun _ => rfl) <| .cons (fun _ => rfl) <| .cons (fun _ => rfl) executes_nil
  rw [hops, plain_rederiveSeq]

/-! ## PS_ARP -/

theorem psArp_of_not_reached (h : ¬limitReached s.syn.arpLimit (s.syn.arpTime + 1#32) = true) :
    psArp P s = { s with syn := { s.syn with arpTime := s.syn.arpTime + 1#32 } } :=
  if_neg h

theorem psArp_of_reached (h : limitReached s.syn.arpLimit (s.syn.arpTime + 1#32) = true) :
    psArp P s = { s with syn := { s.syn with
      arpTime := s.syn.arpTime + 1#32, arpLimit := 0#32, fperiod := mul64 P s.syn.fperiod s.syn.arpMod } } :=
  if_pos h

/-! ## PS_SLIDE -/

/-- The period that one slide step gives, before the clamp. -/
def slidPeriod (P : Params) (y : Synth) : F64 := mul64 P y.fperiod (add64 P y.fslide y.fdslide)

theorem psSlide_of_within (h : lt64 s.syn.fmaxperiod (slidPeriod P s.syn) = false) :
    psSlide P s = { s with syn := { s.syn with
      fslide := add64 P s.syn.fslide s.syn.fdslide, fperiod := slidPeriod P s.syn } } :=
  if_neg (Bool.eq_false_iff.mp h)

/-- Without a minimum frequency the period stays at its maximum, and the run goes on. -/
theorem psSlide_of_above (h : lt64 s.syn.fmaxperiod (slidPeriod P s.syn) = true)
    (hmin : lt32 0#32 s.prm.minFrequency = false) :
    psSlide P s = { s with syn := { s.syn with
      fslide := add64 P s.syn.fslide s.syn.fdslide, fperiod := s.syn.fmaxperiod } } :=
  (if_pos h).trans (if_neg (Bool.eq_false_iff.mp hmin))

theorem psSlide_of_floor (h : lt64 s.syn.fmaxperiod (slidPeriod P s.syn) = true)
    (hmin : lt32 0#32 s.prm.minFrequency = true) :
    psSlide P s = { s with
      syn := { s.syn with fslide := add64 P s.syn.fslide s.syn.fdslide, fperiod := s.syn.fmaxperiod, gen := false }
      termFloor := true } :=
  (if_pos h).trans (if_pos hmin)

/-! ## PS_VIBRATO -/

theorem psVibrato_off (h : lt32 0#32 s.syn.vibAmp = false) :
    psVibrato P s = { s with seq := { s.seq with rfperiod := cvt32 P s.syn.fperiod } } :=
  if_neg (Bool.eq_false_iff.mp h)

theorem psVibrato_on (h : lt32 0#32 s.syn.vibAmp = true) :
    psVibrato P s = { s with
      syn := { s.syn with vibPhase := add32 P s.syn.vibPhase s.syn.vibSpeed }
      seq := { s.seq with
        rfperiod := vibratoPeriod P s.syn.fperiod (add32 P s.syn.vibPhase s.syn.vibSpeed) s.syn.vibAmp } } :=
  if_pos h

/-! ## PS_PERIOD -/

theorem floorPeriod_of_ge {v : I32} (h : P.K.minPeriod.toInt ≤ v.toInt) : floorPeriod P v = v :=
  if_neg (by rw [BitVec.slt_iff_toInt_lt]; exact not_lt.mpr h)

theorem floorPeriod_of_lt {v : I32} (h : v.toInt < P.K.minPeriod.toInt) : floorPeriod P v = P.K.minPeriod :=
  if_pos (BitVec.slt_iff_toInt_lt.mpr h)

end

/-! ## The statements -/

/-- Settles O27: at the limit the re-derivation, which the four micro-operations perform; else the count alone. -/
theorem repeatRederives : Obligations.RepeatRederives := by
  refine ⟨rfl, fun s => ⟨fun hbelow => ?count, fun hreached => ?boundary⟩⟩
  case count => exact congrArg Host.Outcome.next (psRepeat_of_not_reached (mt limitReached_iff.mp hbelow))
  case boundary =>
    have hexec : exec .psRepeat s = .next _ :=
      congrArg Host.Outcome.next (psRepeat_of_reached (limitReached_iff.mpr hreached))
    exact ⟨_, hexec, execSeq_rederive _, congrArg s.setSyn (rederive_frame specParams s.prm _)⟩

/-- Settles O31: truncation, and then the floor from above and from below. -/
theorem periodIsAtLeastEight : Obligations.PeriodIsAtLeastEight := by
  have hmin : specParams.K.minPeriod.toInt = 8 := rfl
  refine ⟨rfl, fun s => ⟨psPeriod specParams s, rfl, psPeriod_eq specParams s, ?floor, fun hge => ?kept,
    fun hlt => ?raised⟩⟩
  case floor => exact hmin ▸ floorPeriod_ge specParams _
  case kept => exact floorPeriod_of_ge (hmin ▸ hge)
  case raised => exact floorPeriod_of_lt (hmin ▸ hlt)

/-- Settles O28: the two cases of the arpeggio's limit. -/
theorem arpeggioFiresOnce : Obligations.ArpeggioFiresOnce :=
  ⟨rfl, fun _ =>
    ⟨fun hbelow => congrArg Host.Outcome.next (psArp_of_not_reached (mt limitReached_iff.mp hbelow)),
      fun hreached => congrArg Host.Outcome.next (psArp_of_reached (limitReached_iff.mpr hreached))⟩⟩

/-- Settles O29: within the maximum; above it without a minimum frequency; and above it with one. -/
theorem slideClampsAtTheFloor : Obligations.SlideClampsAtTheFloor :=
  ⟨rfl, fun _ =>
    ⟨fun hwithin => congrArg Host.Outcome.next (psSlide_of_within hwithin),
      fun habove hmin => congrArg Host.Outcome.next (psSlide_of_above habove hmin),
      fun habove hmin => congrArg Host.Outcome.next (psSlide_of_floor habove hmin)⟩⟩

/-- Settles O30: the LFO off and on. -/
theorem vibratoModulatesThePeriod : Obligations.VibratoModulatesThePeriod :=
  ⟨rfl, fun _ => ⟨fun hoff => congrArg Host.Outcome.next (psVibrato_off hoff),
    fun hon => congrArg Host.Outcome.next (psVibrato_on hon)⟩⟩

end Sys2Proof.Machine
end

section
/-! PROOFS. The clamped registers (00_scope.md R14): the two ordered tests of a clamp leave a NaN or a value inside its
range, whatever the arithmetic before it gave. PS_DUTY, PS_HP_SWEEP, SS_LPF and SU_FILTER write such a value
(43_duty_envelope.md R230, 44_phaser_tap_hp_sweep.md R251, 46_filters.md R280, 41_setup.md R187). -/

namespace Sys2Proof.Machine

/-! ## Clamps -/

/-- Among numbers that are no NaN, what is not below is at or above. -/
theorem ge32_of_not_lt {a b : F32} (ha : isNan32 a = false) (hb : isNan32 b = false) (h : lt32 a b = false) :
    ge32 a b = true := by
  rw [ge32_iff ha hb, ← not_lt, ← binary32_proper.lt_iff ha hb]
  exact Bool.eq_false_iff.mp h

theorem ge32_refl {a : F32} (ha : isNan32 a = false) : ge32 a a = true := ge32_of_not_lt ha ha (lt32_irrefl a)

section
variable {lo hi x : F32}

theorem clamp32_of_below (hrange : lt32 hi lo = false) (h : lt32 x lo = true) : clamp32 lo hi x = lo := by
  rw [clamp32, if_pos h]
  exact if_neg (Bool.eq_false_iff.mp hrange)

theorem clamp32_of_above (hlow : lt32 x lo = false) (h : lt32 hi x = true) : clamp32 lo hi x = hi := by
  rw [clamp32, if_neg (Bool.eq_false_iff.mp hlow)]
  exact if_pos h

theorem clamp32_of_between (hlow : lt32 x lo = false) (hhigh : lt32 hi x = false) : clamp32 lo hi x = x := by
  rw [clamp32, if_neg (Bool.eq_false_iff.mp hlow)]
  exact if_neg (Bool.eq_false_iff.mp hhigh)

end

/-- What a clamp to `[lo, hi]` gives: a NaN passes both of its tests. -/
def nanOrWithin (lo hi x : F32) : Prop := isNan32 x = true ∨ ge32 x lo = true ∧ ge32 hi x = true

theorem nanOrWithin_clamp32 {lo hi : F32} (hlo : isNan32 lo = false) (hhi : isNan32 hi = false)
    (hrange : lt32 hi lo = false) (x : F32) : nanOrWithin lo hi (clamp32 lo hi x) := by
  have hge : ge32 hi lo = true := ge32_of_not_lt hhi hlo hrange
  cases hlow : lt32 x lo with
  | true =>
    rw [clamp32_of_below hrange hlow]
    exact .inr ⟨ge32_refl hlo, hge⟩
  | false =>
    cases hhigh : lt32 hi x with
    | true =>
      rw [clamp32_of_above hlow hhigh]
      exact .inr ⟨hge, ge32_refl hhi⟩
    | false =>
      rw [clamp32_of_between hlow hhigh]
      cases hnan : isNan32 x with
      | true => exact .inl hnan
      | false => exact .inr ⟨ge32_of_not_lt hnan hlo hlow, ge32_of_not_lt hhi hnan hhigh⟩

/-- The damping cap has the upper test of a clamp alone. -/
theorem capDamping_range {P : Params} (hmax : isNan32 P.K.dmpMax = false) (d : F32) :
    isNan32 (capDamping P d) = true ∨ ge32 P.K.dmpMax (capDamping P d) = true := by
  unfold capDamping
  split_ifs with hhigh
  · exact .inr (ge32_refl hmax)
  · cases hnan : isNan32 d with
    | true => exact .inl rfl
    | false => exact .inr (ge32_of_not_lt hmax hnan (Bool.eq_false_iff.mpr hhigh))

/-! ## The registers -/

section
variable {P : Params} {s : State}

theorem psHpSweep_of_closed (h : hpGate P s = false) : psHpSweep P s = s := if_neg (Bool.eq_false_iff.mp h)

theorem psHpSweep_of_open (h : hpGate P s = true) : psHpSweep P s = { s with syn := { s.syn with
    flthp := clamp32 P.K.hpMin P.K.hpMax (mul32 P s.syn.flthp s.syn.flthpd) } } := if_pos h

end

/-- The default gate is open unless the factor is equal to 0. -/
theorem hpGate_specParams (s : State) : hpGate specParams s = !eq32 s.syn.flthpd 0#32 := rfl

/-- The bandwidth is swept and clamped before the bypass test. -/
theorem lowPass_fltw (P : Params) (p : Prm) (sample : F32) (y : Synth) :
    (y.lowPass P p sample).fltw = clamp32 0#32 P.K.lpwMax (mul32 P y.fltw y.fltwd) := by
  unfold Synth.lowPass
  dsimp only
  split_ifs <;> rfl

/-- Settles O33: PS_DUTY is one update, and the gate decides whether PS_HP_SWEEP is one. -/
theorem dutyAndHighPassSweeps : Obligations.DutyAndHighPassSweeps := by
  refine fun s => ⟨congrArg Host.Outcome.next (psDuty_eq specParams s), fun hzero => ?closed, fun hfactor => ?opened⟩
  case closed =>
    exact congrArg Host.Outcome.next (psHpSweep_of_closed (by rw [hpGate_specParams, hzero, Bool.not_true]))
  case opened =>
    exact congrArg Host.Outcome.next (psHpSweep_of_open (by rw [hpGate_specParams, hfactor, Bool.not_false]))

/-- Settles O32: each of the four registers is written with the result of its clamp. -/
theorem clampedRegistersStayInRange : Obligations.ClampedRegistersStayInRange := by
  refine fun s => ⟨⟨psDuty specParams s, rfl, ?duty⟩, fun hfactor => ⟨psHpSweep specParams s, rfl, ?highPass⟩,
    ⟨ssLpf specParams s, rfl, ?lowPass⟩, ⟨suFilter specParams s, rfl, ?damping⟩⟩
  case duty => exact nanOrWithin_clamp32 (by decide) (by decide) (by decide) _
  case highPass =>
    rw [psHpSweep_of_open (by rw [hpGate_specParams, hfactor, Bool.not_false])]
    exact nanOrWithin_clamp32 (by decide) (by decide) (by decide) _
  case lowPass =>
    rw [ssLpf_eq, lowPass_fltw]
    exact nanOrWithin_clamp32 (by decide) (by decide) (by decide) _
  case damping => exact capDamping_range (P := specParams) (by decide) _

end Sys2Proof.Machine
end

section
/-! PROOFS. The envelope state machine (43_duty_envelope.md R231): what PS_ENV writes in a stage below the terminal one,
and, from a count of the samples that are left to the envelope, how long it runs. -/

namespace Sys2Proof.Machine

/-! ## PS_ENV -/

theorem envAdvance_frame (s : State) : envAdvance s = { s with
    syn := { s.syn with envTime := (envAdvance s).syn.envTime, envStage := (envAdvance s).syn.envStage,
                        gen := (envAdvance s).syn.gen },
    termEnv := (envAdvance s).termEnv } := by
  unfold envAdvance
  dsimp only
  split_ifs <;> rfl

/-- PS_ENV computes the volume last, in the stage the envelope has come to. -/
theorem psEnv_eq_advance (P : Params) (s : State) : psEnv P s = { envAdvance s with
    syn := { (envAdvance s).syn with envVol := (envAdvance s).syn.volume P s.prm.sustainPunch } } := rfl

theorem psEnv_frame (P : Params) (s : State) : psEnv P s = { s with
    syn := { s.syn with envTime := (psEnv P s).syn.envTime, envStage := (psEnv P s).syn.envStage,
                        envVol := (psEnv P s).syn.envVol, gen := (psEnv P s).syn.gen },
    termEnv := (psEnv P s).termEnv } := by
  rw [psEnv_eq_advance, envAdvance_frame]

section
variable {s : State}

/-- Past its length a stage ends, and the next one starts at time 0. -/
theorem envAdvance_move (h : (s.syn.envLen s.syn.envStage).slt (s.syn.envTime + 1#32) = true) :
    (envAdvance s).syn.envTime = 0#32 ∧ (envAdvance s).syn.envStage = s.syn.envStage + 1#32 := by
  by_cases hend : s.syn.envStage + 1#32 = 3#32
  · rw [envAdvance_end h hend]
    exact ⟨rfl, rfl⟩
  · rw [envAdvance_next h hend]
    exact ⟨rfl, rfl⟩

/-- From a stage below the terminal one, `S.gen` and TERM_ENV change exactly on entering the terminal one. -/
theorem envAdvance_termination (hstage : s.syn.envStage ≠ 3#32) :
    ((envAdvance s).syn.envStage = 3#32 → (envAdvance s).syn.gen = false ∧ (envAdvance s).termEnv = true) ∧
    ((envAdvance s).syn.envStage ≠ 3#32 →
      (envAdvance s).syn.gen = s.syn.gen ∧ (envAdvance s).termEnv = s.termEnv) := by
  cases hlen : (s.syn.envLen s.syn.envStage).slt (s.syn.envTime + 1#32) with
  | false =>
    rw [envAdvance_stay hlen]
    exact ⟨fun h => absurd h hstage, fun _ => ⟨rfl, rfl⟩⟩
  | true =>
    by_cases hend : s.syn.envStage + 1#32 = 3#32
    · rw [envAdvance_end hlen hend]
      exact ⟨fun _ => ⟨rfl, rfl⟩, fun h => absurd hend h⟩
    · rw [envAdvance_next hlen hend]
      exact ⟨fun h => absurd h hend, fun _ => ⟨rfl, rfl⟩⟩

end

/-! ## The volume of a stage -/

section
variable {y : Synth} (P : Params) (punch : F32)

theorem volume_attack (h : y.envStage = 0#32) : y.volume P punch = stageFraction P y.envTime y.envLen0 := if_pos h

theorem volume_sustain (h : y.envStage = 1#32) : y.volume P punch = sustainVolume P y.envTime y.envLen1 punch := by
  rw [Synth.volume, h]
  rfl

theorem volume_decay (h : y.envStage = 2#32) :
    y.volume P punch = sub32 P one32 (stageFraction P y.envTime y.envLen2) := by
  rw [Synth.volume, h]
  rfl

theorem volume_terminal (h : y.envStage = 3#32) : y.volume P punch = y.envVol := by
  rw [Synth.volume, h]
  rfl

end

/-- Settles O34: the envelope advances, and its volume is that of the stage it has come to. -/
theorem envelopeStateMachine : Obligations.EnvelopeStateMachine := by
  refine ⟨rfl, fun s len hstage => ?_⟩
  obtain ⟨hlen, hbelow⟩ : s.syn.envLen s.syn.envStage = len ∧ s.syn.envStage ≠ 3#32 := by
    rcases hstage with ⟨h, rfl⟩ | ⟨h, rfl⟩ | ⟨h, rfl⟩ <;> rw [h] <;> exact ⟨rfl, by decide⟩
  obtain ⟨hended, hgoing⟩ := envAdvance_termination hbelow
  have hlen0 : (envAdvance s).syn.envLen0 = s.syn.envLen0 := by rw [envAdvance_frame]
  have hlen1 : (envAdvance s).syn.envLen1 = s.syn.envLen1 := by rw [envAdvance_frame]
  have hlen2 : (envAdvance s).syn.envLen2 = s.syn.envLen2 := by rw [envAdvance_frame]
  have hvol : (envAdvance s).syn.envVol = s.syn.envVol := by rw [envAdvance_frame]
  refine ⟨psEnv specParams s, rfl, psEnv_frame specParams s, fun hle => ?stay, fun hlt => ?move, fun h => ?terminal,
    hgoing, fun h => ?attack, fun h => ?sustain, fun h => ?decay⟩
  case stay =>
    have hslt : (s.syn.envLen s.syn.envStage).slt (s.syn.envTime + 1#32) = false := by
      rw [hlen, Bool.eq_false_iff, ne_eq, BitVec.slt_iff_toInt_lt]
      exact not_lt.mpr hle
    rw [psEnv_eq_advance, envAdvance_stay hslt]
    exact ⟨rfl, rfl⟩
  case move => exact envAdvance_move (hlen.symm ▸ BitVec.slt_iff_toInt_lt.mpr hlt)
  case terminal =>
    obtain ⟨hgen, hterm⟩ := hended h
    exact ⟨hgen, hterm, hvol ▸ volume_terminal specParams s.prm.sustainPunch h⟩
  case attack => exact hlen0 ▸ volume_attack specParams s.prm.sustainPunch h
  case sustain => exact hlen1 ▸ volume_sustain specParams s.prm.sustainPunch h
  case decay => exact hlen2 ▸ volume_decay specParams s.prm.sustainPunch h

/-! ## The samples that are left -/

/-- The stages that have a length. -/
def timedStages : List I32 := [0#32, 1#32, 2#32]

/-- How many samples the stages after a given one take: the length of each, and one that leaves it. -/
def Synth.laterSamples (y : Synth) (stage : I32) : Nat :=
  if stage = 0#32 then stageSamples y.envLen1 + 1 + (stageSamples y.envLen2 + 1)
  else if stage = 1#32 then stageSamples y.envLen2 + 1
  else 0

/-- How many samples the envelope takes until it ends. -/
def Synth.samplesLeft (y : Synth) : Nat :=
  stageSamples (y.envLen y.envStage) - y.envTime.toNat + 1 + y.laterSamples y.envStage

/-- The envelope is in a stage that has a length, at a time within it, and no length is the greatest number, which no
time exceeds. -/
structure EnvelopeRuns (s : State) : Prop where
  gen : s.syn.gen = true
  timed : s.syn.envStage ∈ timedStages
  time_le : s.syn.envTime.toNat ≤ stageSamples (s.syn.envLen s.syn.envStage)
  len_lt : ∀ stage ∈ timedStages, stageSamples (s.syn.envLen stage) < 2 ^ 31 - 1

/-- The envelope has ended the run. -/
def EnvelopeEnded (s : State) : Prop := s.syn.gen = false ∧ s.syn.envStage = 3#32 ∧ s.termEnv = true

theorem mem_timedStages_iff {stage : I32} :
    stage ∈ timedStages ↔ stage = 0#32 ∨ stage = 1#32 ∨ stage = 2#32 := by
  simp [timedStages]

theorem next_mem_timedStages {stage : I32} (hmem : stage ∈ timedStages) (hnext : stage + 1#32 ≠ 3#32) :
    stage + 1#32 ∈ timedStages := by
  rcases mem_timedStages_iff.mp hmem with rfl | rfl | rfl
  · decide
  · decide
  · exact absurd rfl hnext

theorem laterSamples_of_next (y : Synth) {stage : I32} (hmem : stage ∈ timedStages) (hnext : stage + 1#32 ≠ 3#32) :
    y.laterSamples stage = stageSamples (y.envLen (stage + 1#32)) + 1 + y.laterSamples (stage + 1#32) := by
  rcases mem_timedStages_iff.mp hmem with rfl | rfl | rfl
  · rfl
  · rfl
  · exact absurd rfl hnext

theorem laterSamples_of_last (y : Synth) {stage : I32} (hlast : stage + 1#32 = 3#32) : y.laterSamples stage = 0 := by
  obtain rfl : stage = 2#32 := by bv_omega
  rfl

/-- A time within its stage does not wrap. -/
theorem toNat_time_succ {len time : I32} (hlt : stageSamples len < 2 ^ 31 - 1)
    (hle : time.toNat ≤ stageSamples len) : (time + 1#32).toNat = time.toNat + 1 := by
  rw [BitVec.toNat_add]
  exact Nat.mod_eq_of_lt (by show time.toNat + 1 < 2 ^ 32; omega)

/-- A time within its stage exceeds the length by the next sample only when it has reached it; for a length below 0
that is the time 0. -/
theorem slt_succ_iff {len time : I32} (hlt : stageSamples len < 2 ^ 31 - 1) (hle : time.toNat ≤ stageSamples len) :
    len.slt (time + 1#32) = true ↔ time.toNat = stageSamples len := by
  have hsucc := toNat_time_succ hlt hle
  rw [BitVec.slt_iff_toInt_lt, BitVec.toInt_eq_toNat_of_lt (x := time + 1#32) (by omega), hsucc]
  unfold stageSamples at *
  omega

/-- One advance ends the envelope at its last sample, and else leaves it one sample fewer. -/
theorem EnvelopeRuns.advance_cases {s : State} (h : EnvelopeRuns s) :
    s.syn.samplesLeft = 1 ∧ EnvelopeEnded (envAdvance s) ∨
    EnvelopeRuns (envAdvance s) ∧ s.syn.samplesLeft = (envAdvance s).syn.samplesLeft + 1 := by
  have hlt := h.len_lt _ h.timed
  have hreached := slt_succ_iff hlt h.time_le
  cases hlen : (s.syn.envLen s.syn.envStage).slt (s.syn.envTime + 1#32) with
  | false =>
    have htime : s.syn.envTime.toNat < stageSamples (s.syn.envLen s.syn.envStage) :=
      h.time_le.lt_of_ne fun heq => by simp [hreached.mpr heq] at hlen
    have hsucc := toNat_time_succ hlt h.time_le
    rw [envAdvance_stay hlen]
    refine .inr ⟨{ h with time_le := hsucc.trans_le htime }, ?_⟩
    show stageSamples (s.syn.envLen s.syn.envStage) - s.syn.envTime.toNat + 1 + s.syn.laterSamples s.syn.envStage =
      stageSamples (s.syn.envLen s.syn.envStage) - (s.syn.envTime + 1#32).toNat + 1 +
        s.syn.laterSamples s.syn.envStage + 1
    omega
  | true =>
    have htime := hreached.mp hlen
    have hleft : s.syn.samplesLeft = 1 + s.syn.laterSamples s.syn.envStage := by
      rw [Synth.samplesLeft, htime, Nat.sub_self, Nat.zero_add]
    by_cases hend : s.syn.envStage + 1#32 = 3#32
    · rw [hleft, laterSamples_of_last _ hend, envAdvance_end hlen hend]
      exact .inl ⟨rfl, rfl, hend, rfl⟩
    · rw [hleft, laterSamples_of_next _ h.timed hend, envAdvance_next hlen hend]
      refine .inr ⟨{ h with timed := next_mem_timedStages h.timed hend, time_le := Nat.zero_le _ }, ?_⟩
      exact Nat.add_comm _ _

/-- The volume plays no part in how long the envelope runs. -/
theorem EnvelopeRuns.psEnv_cases {s : State} (h : EnvelopeRuns s) (P : Params) :
    s.syn.samplesLeft = 1 ∧ EnvelopeEnded (psEnv P s) ∨
    EnvelopeRuns (psEnv P s) ∧ s.syn.samplesLeft = (psEnv P s).syn.samplesLeft + 1 := by
  rw [psEnv_eq_advance]
  exact h.advance_cases.imp id fun ⟨hruns, hleft⟩ => ⟨{ hruns with }, hleft⟩

/-- The envelope runs for exactly the samples that are left. -/
theorem envelopeSamples_samplesLeft (P : Params) : ∀ (n : Nat) {s : State}, EnvelopeRuns s → s.syn.samplesLeft = n →
    (∀ k, k < n → (envelopeSamples P k s).syn.gen = true) ∧ EnvelopeEnded (envelopeSamples P n s) := by
  intro n
  induction n with
  | zero =>
    intro s _ hleft
    unfold Synth.samplesLeft at hleft
    omega
  | succ n ih =>
    intro s h hleft
    rcases h.psEnv_cases P with ⟨hlast, hended⟩ | ⟨hruns, hnext⟩
    · obtain rfl : n = 0 := by omega
      exact ⟨fun k hk => Nat.lt_one_iff.mp hk ▸ h.gen, hended⟩
    · obtain ⟨hgen, hended⟩ := ih hruns (by omega)
      refine ⟨fun k hk => ?_, hended⟩
      cases k with
      | zero => exact h.gen
      | succ k => exact hgen k (Nat.lt_of_succ_lt_succ hk)

theorem stageSamples_lt {len : I32} (h : len.toInt < 2 ^ 31 - 1) : stageSamples len < 2 ^ 31 - 1 := by
  unfold stageSamples
  omega

/-- Settles O35: at the start of stage 0 the samples left are those of the three lengths and one to leave each stage. -/
theorem envelopeSampleCount : Obligations.EnvelopeSampleCount := by
  intro P s hstage htime hgen hlen0 hlen1 hlen2 n
  have hruns : EnvelopeRuns s :=
    { gen := hgen
      timed := hstage ▸ List.mem_cons_self
      time_le := htime ▸ Nat.zero_le _
      len_lt := by
        simp only [timedStages, List.forall_mem_cons]
        exact ⟨stageSamples_lt hlen0, stageSamples_lt hlen1, stageSamples_lt hlen2, nofun⟩ }
  have hleft : s.syn.samplesLeft = n := by
    calc s.syn.samplesLeft
      _ = stageSamples s.syn.envLen0 - 0 + 1 +
          (stageSamples s.syn.envLen1 + 1 + (stageSamples s.syn.envLen2 + 1)) := by
        rw [Synth.samplesLeft, hstage, htime]
        rfl
      _ = n := by omega
  exact envelopeSamples_samplesLeft P n hruns hleft

end Sys2Proof.Machine
end

section
/-! PROOFS. The phaser tap (44_phaser_tap_hp_sweep.md R250): the swept offset is kept as it is, and the tap is the
magnitude of its truncation, clamped above alone. -/

namespace Sys2Proof.Machine

/-! ## The magnitude of an integer -/

theorem absI32_eq_abs (v : I32) : absI32 v = v.abs := by
  rw [absI32, BitVec.slt_zero_eq_msb, BitVec.abs_eq]

/-- Only the least number has no magnitude in 32 bits (00_scope.md R12). -/
theorem toInt_absI32 {v : I32} (h : v ≠ 0x80000000#32) : (absI32 v).toInt = v.toInt.natAbs := by
  rw [absI32_eq_abs]
  exact BitVec.toInt_abs_eq_natAbs_of_ne_intMin h

theorem toNat_absI32 {v : I32} (h : v ≠ 0x80000000#32) : (absI32 v).toNat = v.toInt.natAbs := by
  have hmsb : (absI32 v).msb = false := by
    rw [← BitVec.zero_sle_iff_msb_eq_false, BitVec.sle_iff_toInt_le, toInt_absI32 h]
    exact Int.natCast_nonneg _
  rw [← BitVec.toNat_toInt_of_msb _ hmsb, toInt_absI32 h, Int.toNat_natCast]

/-! ## The tap -/

section
variable {P : Params} {offset : F32}

theorem tapOf_of_le (h : (absI32 (trunc32 P offset)).toInt ≤ P.K.tapMax.toInt) :
    tapOf P offset = absI32 (trunc32 P offset) :=
  if_neg (by rw [BitVec.slt_iff_toInt_lt]; exact not_lt.mpr h)

theorem tapOf_of_gt (h : P.K.tapMax.toInt < (absI32 (trunc32 P offset)).toInt) : tapOf P offset = P.K.tapMax :=
  if_pos (BitVec.slt_iff_toInt_lt.mpr h)

/-- Where the offset has a magnitude, the tap is that magnitude or the last index of the delay line. -/
theorem toNat_tapOf (h : trunc32 specParams offset ≠ 0x80000000#32) :
    (tapOf specParams offset).toNat = min 1023 (trunc32 specParams offset).toInt.natAbs := by
  have hmax : specParams.K.tapMax.toInt = 1023 := rfl
  have habs := toInt_absI32 h
  rcases le_or_gt (trunc32 specParams offset).toInt.natAbs 1023 with hle | hgt
  · rw [tapOf_of_le (by omega), toNat_absI32 h, min_eq_right hle]
  · rw [tapOf_of_gt (by omega), min_eq_left hgt.le]
    rfl

/-- The least number is its own negation, and below 0 it passes the clamp. -/
theorem tapOf_of_oor (h : trunc32 specParams offset = 0x80000000#32) : tapOf specParams offset = 0x80000000#32 := by
  have habs : absI32 (trunc32 specParams offset) = 0x80000000#32 := by rw [h]; rfl
  rw [tapOf_of_le (by rw [habs]; decide), habs]

end

/-! ## PS_PHASER_TAP -/

theorem psPhaserTap_eq_tapOf (P : Params) (s : State) : psPhaserTap P s = { s with syn := { s.syn with
    fphase := add32 P s.syn.fphase s.syn.fdphase
    iphase := tapOf P (add32 P s.syn.fphase s.syn.fdphase) } } := rfl

/-- Settles O36: the micro-operation is one update, and the truncated offset either has a magnitude or is the CVT_OOR
that has none. -/
theorem phaserTapRange : Obligations.PhaserTapRange :=
  ⟨rfl, fun s => ⟨psPhaserTap specParams s, rfl, psPhaserTap_eq_tapOf specParams s, toNat_tapOf, tapOf_of_oor⟩⟩

end Sys2Proof.Machine
end

section
/-! PROOFS. The oscillator (45_oscillator.md R260 to R267): the phase wraps by a modulo and a noise wrap alone refills
the noise table; the lookup computes the phase fraction and then performs the case its selector picks. -/

namespace Sys2Proof.Machine

/-! ## The phase as a number -/

theorem toNat_lt_of_toInt_nonneg {x : I32} (h : 0 ≤ x.toInt) : x.toNat < 2 ^ 31 := by
  rw [BitVec.toInt_eq_toNat_cond] at h
  split_ifs at h <;> omega

/-- `a mod b` as numbers, where 00_scope.md R12 defines it. -/
theorem toInt_modI32 {a b : I32} (ha : 0 ≤ a.toInt) (hb : 0 < b.toInt) : (modI32 a b).toInt = a.toInt % b.toInt := by
  have hltA := toNat_lt_of_toInt_nonneg ha
  have hmod := modI32_toNat hltA hb
  have hltMod : (modI32 a b).toNat < 2 ^ 31 := hmod ▸ (Nat.mod_le _ _).trans_lt hltA
  rw [toInt_of_lt hltMod, hmod, Int.natCast_mod, ← toInt_of_lt hltA, ← toInt_of_lt (toNat_lt_of_toInt_pos hb)]

/-- The noise index inside the period, where `div` is defined (R261, R265). -/
theorem noiseIndex_of_phase_lt {phase period : I32} (hphase : 0 ≤ phase.toInt) (hlt : phase.toInt < period.toInt) :
    noiseIndex phase period = phase.toNat * 32 / period.toNat := by
  refine if_pos ?_
  rw [Bool.and_eq_true, Bool.not_eq_true', Bool.eq_false_iff, ne_eq, BitVec.slt_iff_toInt_lt, BitVec.slt_iff_toInt_lt]
  exact ⟨not_lt.mpr hphase, hphase.trans_lt hlt⟩

/-- The phase of the next sub-sample (R260). -/
def nextPhase (phase period : I32) : I32 :=
  if period.sle (phase + 1#32) then modI32 (phase + 1#32) period else phase + 1#32

section
variable {phase period : I32}

theorem toInt_phase_succ (hphase : 0 ≤ phase.toInt) (hbound : phase.toInt < 2 ^ 31 - 1) :
    (phase + 1#32).toInt = phase.toInt + 1 := by
  have hnat := toInt_of_lt (toNat_lt_of_toInt_nonneg hphase)
  have hsucc : (phase + 1#32).toNat = phase.toNat + 1 := by
    rw [BitVec.toNat_add]
    exact Nat.mod_eq_of_lt (by show phase.toNat + 1 < 2 ^ 32; omega)
  rw [toInt_of_lt (x := phase + 1#32) (by omega), hsucc, hnat, Nat.cast_add_one]

/-- The wrap test is by signed compare. -/
theorem sle_phase_succ_iff (hphase : 0 ≤ phase.toInt) (hbound : phase.toInt < 2 ^ 31 - 1) :
    period.sle (phase + 1#32) = true ↔ period.toInt ≤ phase.toInt + 1 := by
  rw [BitVec.sle_iff_toInt_le, toInt_phase_succ hphase hbound]

/-- Without a wrap the phase is its own remainder. -/
theorem toInt_nextPhase (hperiod : 0 < period.toInt) (hphase : 0 ≤ phase.toInt) (hbound : phase.toInt < 2 ^ 31 - 1) :
    (nextPhase phase period).toInt = (phase.toInt + 1) % period.toInt := by
  have hsucc := toInt_phase_succ hphase hbound
  have hwrap := sle_phase_succ_iff (period := period) hphase hbound
  unfold nextPhase
  split_ifs with h
  · rw [toInt_modI32 (by omega) hperiod, hsucc]
  · rw [hsucc, Int.emod_eq_of_lt (by omega) (not_le.mp (mt hwrap.mpr h))]

end

/-! ## SS_PHASE -/

section
variable (P : Params) {s : State}

theorem ssPhase_phase (s : State) : (ssPhase P s).syn.phase = nextPhase s.syn.phase s.syn.period := by
  unfold ssPhase nextPhase
  dsimp only
  split_ifs
  · rw [fillNoise_syn, State.setSyn_syn]
  · rfl
  · rfl

/-- Without a wrap the phase advances and nothing else happens. -/
theorem ssPhase_of_below (h : ¬s.syn.period.sle (s.syn.phase + 1#32) = true) :
    ssPhase P s = s.setSyn { s.syn with phase := s.syn.phase + 1#32 } := if_neg h

/-- A wrap of the noise waveform refills the noise table (R262). -/
theorem ssPhase_of_noiseWrap (h : s.syn.period.sle (s.syn.phase + 1#32) = true) (hwave : s.prm.waveType = 3#32) :
    ssPhase P s = fillNoise P (s.setSyn { s.syn with phase := modI32 (s.syn.phase + 1#32) s.syn.period }) :=
  (if_pos h).trans (if_pos hwave)

/-- The refill from a state with the memory and the random source of `s`: 32 draws, one for each slot in order, and no
byte outside the table (R262). -/
theorem fillNoise_draws {u : State} (hwf : s.mem.wf = true) (hmem : u.mem = s.mem) (hrng : u.rng = s.rng) :
    (fillNoise P u).rng = s.rng.advance 32 ∧ sameMemoryOutside 0x2000 0x80 s (fillNoise P u) ∧
      ∀ j, j < 32 → ntRead (fillNoise P u).mem j = drawValue P (s.rng.advance j) := by
  rw [← hmem] at hwf
  obtain ⟨hfill, -, -, hdraws⟩ := fillNoise_spec P hwf
  refine ⟨?source, fun a ha => ?outside, ?slots⟩
  case source => rw [hfill, hrng]
  case outside => rw [← hmem, fillNoise, readByte_drawRange P noiseLen 0 u hwf a ha]
  case slots =>
    rw [← hrng]
    exact hdraws

end

/-- Settles O37: the phase of the next sub-sample, with no refill below the period or with another waveform, and the
whole refill at a noise wrap. -/
theorem phaseWrapsByModulo : Obligations.PhaseWrapsByModulo := by
  refine ⟨rfl, fun s hwf hperiod hphase hbound => ?_⟩
  have hwrap := sle_phase_succ_iff (period := s.syn.period) hphase hbound
  refine ⟨ssPhase specParams s, rfl, ssPhase_eq specParams s, ?advance, fun hquiet => ?quiet, fun hle hwave => ?refill⟩
  case advance => rw [ssPhase_phase, toInt_nextPhase hperiod hphase hbound]
  case quiet =>
    rcases hquiet with hbelow | hother
    · rw [ssPhase_of_below specParams (mt hwrap.mp (not_le.mpr hbelow))]
      exact ⟨rfl, rfl⟩
    · rw [ssPhase_of_other specParams hother]
      exact ⟨rfl, rfl⟩
  case refill =>
    rw [ssPhase_of_noiseWrap specParams (hwrap.mpr hle) hwave]
    exact fillNoise_draws specParams hwf rfl rfl

/-! ## SS_WAVE -/

/-- The state a case of SS_WAVE starts from: the phase fraction is in `fp` (R263). -/
def withFraction (P : Params) (s : State) : State := s.setSeq { s.seq with fp := phaseFraction P s.syn }

section
variable (P : Params) {s : State}

theorem ssWave_of_square (h : s.prm.waveType = 0#32) : ssWave P s = waveSquare P (withFraction P s) := by
  rw [ssWave, h]
  rfl

theorem ssWave_of_sawtooth (h : s.prm.waveType = 1#32) : ssWave P s = waveSawtooth P (withFraction P s) := by
  rw [ssWave, h]
  rfl

theorem ssWave_of_sine (h : s.prm.waveType = 2#32) : ssWave P s = waveSine P (withFraction P s) := by
  rw [ssWave, h]
  rfl

theorem ssWave_of_noise (h : s.prm.waveType = 3#32) : ssWave P s = waveNoise (withFraction P s) := by
  rw [ssWave, h]
  rfl

/-- Every selector from 4 on is silent (00_scope.md R24). -/
theorem ssWave_of_other (h : 4 ≤ s.prm.waveType.toNat) : ssWave P s = waveOther (withFraction P s) := by
  obtain ⟨n, hn⟩ := Nat.exists_eq_add_of_le' h
  rw [ssWave, hn]
  rfl

end

/-- The square alternates between the two signs of the default level 0.5 (R264). -/
theorem squareWave_specParams (duty fp : F32) :
    squareWave specParams duty fp = if lt32 fp duty then 0x3F000000#32 else 0xBF000000#32 := rfl

theorem noiseWave_of_phase_lt {s : State} (hphase : 0 ≤ s.syn.phase.toInt)
    (hlt : s.syn.phase.toInt < s.syn.period.toInt) :
    noiseWave s = ntRead s.mem (s.syn.phase.toNat * 32 / s.syn.period.toNat) := by
  rw [noiseWave, noiseIndex_of_phase_lt hphase hlt]

/-- The slot of a phase inside the period is one of the noise table, and its number is the exact quotient (R265). -/
theorem noiseSlot_range {phase period : I32} (hphase : 0 ≤ phase.toInt) (hlt : phase.toInt < period.toInt) :
    phase.toNat * 32 / period.toNat < 32 ∧
    ((phase.toNat * 32 / period.toNat : Nat) : Int) = phase.toInt * 32 / period.toInt := by
  have hnat := toInt_of_lt (toNat_lt_of_toInt_nonneg hphase)
  have hnat' := toInt_of_lt (toNat_lt_of_toInt_pos (hphase.trans_lt hlt))
  refine ⟨Nat.div_lt_of_lt_mul (by omega), ?_⟩
  rw [hnat, hnat', Int.natCast_div, Nat.cast_mul, Nat.cast_ofNat]

/-- SS_WAVE performs the case that its selector decodes to. -/
theorem exec_ssWave (s : State) : exec .ssWave s = exec (decodeWave s.prm.waveType) (withFraction specParams s) := by
  show Host.Outcome.next (ssWave specParams s) = _
  unfold ssWave decodeWave
  generalize s.prm.waveType.toNat = n
  rcases n with _ | _ | _ | _ | n <;> rfl

/-- Settles O38: the two temporaries, and the sample of the case that each selector picks. -/
theorem waveformLookup : Obligations.WaveformLookup := by
  refine ⟨rfl, fun s => ⟨ssWave specParams s, rfl, ssWave_eq specParams s, fun h => ?square, fun h => ?sawtooth,
    fun h => ?sine, fun h hphase hlt => ?noise, fun h => ?other⟩⟩
  case square =>
    rw [ssWave_of_square specParams h]
    exact squareWave_specParams s.syn.squareDuty (phaseFraction specParams s.syn)
  case sawtooth => rw [ssWave_of_sawtooth specParams h]; rfl
  case sine => rw [ssWave_of_sine specParams h]; rfl
  case noise =>
    obtain ⟨hslot, hquotient⟩ := noiseSlot_range hphase hlt
    rw [ssWave_of_noise specParams h]
    exact ⟨_, hslot, hquotient, noiseWave_of_phase_lt (s := withFraction specParams s) hphase hlt⟩
  case other => rw [ssWave_of_other specParams h]; rfl

/-- Settles O39: each case is one update, and SS_WAVE decodes its selector. -/
theorem waveCasesWriteTheSample : Obligations.WaveCasesWriteTheSample := by
  refine fun s sel => ⟨?square, rfl, rfl, fun hphase hlt => ?noise, rfl, exec_ssWave s⟩
  case square =>
    show Host.Outcome.next (s.setSample _) = _
    rw [squareWave_specParams]
    rfl
  case noise =>
    show Host.Outcome.next (s.setSample (noiseWave s)) = _
    rw [noiseWave_of_phase_lt hphase hlt]
    rfl

end Sys2Proof.Machine
end

section
/-! PROOFS. The filter sections (46_filters.md R280, R281): the low-pass registers on both sides of the bypass test, and
the high-pass leak. -/

namespace Sys2Proof.Machine

section
variable (P : Params) {p : Prm} (sample : F32) (y : Synth)

/-- The damped integration, at the bandwidth that has just been swept (R280). -/
theorem lowPass_of_cutoff_ne (h : eq32 p.lpfCutoff one32 = false) :
    let w := clamp32 0#32 P.K.lpwMax (mul32 P y.fltw y.fltwd)
    y.lowPass P p sample = { y with fltw := w, fltdp := lpfVelocity P sample y w,
                                    fltp := add32 P y.fltp (lpfVelocity P sample y w) } :=
  if_neg (Bool.eq_false_iff.mp h)

/-- The bypass sweeps the bandwidth too, and the velocity it adds is 0 (R280). -/
theorem lowPass_of_cutoff_eq (h : eq32 p.lpfCutoff one32 = true) :
    y.lowPass P p sample = { y with fltw := clamp32 0#32 P.K.lpwMax (mul32 P y.fltw y.fltwd), fltdp := 0#32,
                                    fltp := add32 P sample 0#32 } := if_pos h

end

/-- Settles O40: SS_LPF on the two sides of its test of the cutoff, each one update, and SS_HPF. -/
theorem filterSections : Obligations.FilterSections := by
  refine ⟨rfl, rfl, fun s => ⟨fun hcutoff => ?integration, fun hcutoff => ?bypass, ?highPass⟩⟩
  case integration =>
    show Host.Outcome.next (ssLpf specParams s) = _
    rw [ssLpf_eq, lowPass_of_cutoff_ne specParams s.seq.sample s.syn hcutoff]
    rfl
  case bypass =>
    show Host.Outcome.next (ssLpf specParams s) = _
    rw [ssLpf_eq, lowPass_of_cutoff_eq specParams s.seq.sample s.syn hcutoff]
    rfl
  case highPass => exact congrArg Host.Outcome.next (ssHpf_eq specParams s)

end Sys2Proof.Machine
end

section
/-! PROOFS. What an instruction and a step can do to memory and to the output port, said once: a step changes the control
part and executes at most one instruction, and an instruction is one of the engine's, SETUP, STEP, or writes no more than the
record and the control part. With it the canonical form of memory (log 16), which everything keeps, and the port, which
nothing shortens (48_output.md R302). -/

namespace Sys2Proof.Machine

/-! ## Instructions -/

/-- `t` is `s` but for the record and the control part. -/
def SameDatapath (s t : State) : Prop := t = State.control t (s.setPrm t.prm)

theorem SameDatapath.mem {s t : State} (h : SameDatapath s t) : t.mem = s.mem := (congrArg State.mem h :)

theorem SameDatapath.emitted {s t : State} (h : SameDatapath s t) : t.emitted = s.emitted := (congrArg State.emitted h :)

theorem hostWritePrm_sameDatapath (n : Nat) (v : BitVec 32) (s : State) : SameDatapath s (hostWritePrm n v s) := by
  unfold hostWritePrm
  split_ifs <;> rfl

/-- A command is SETUP outside RUNNING, or STEP in READY, or moves the control part alone (40_control.md R140). -/
theorem command_datapath (v : BitVec 32) (s : State) :
    s.run ≠ .running ∧ exec .setup s = .next (command specParams v s) ∨
    s.run = .ready ∧ exec .step s = .next (command specParams v s) ∨ SameDatapath s (command specParams v s) := by
  rcases command_cases specParams v s with h | h | ⟨hrun, h⟩ | ⟨hrun, h⟩ | ⟨-, h⟩ | h | ⟨-, h⟩ <;> rw [h]
  · exact .inr (.inr rfl)
  · exact .inr (.inr rfl)
  · exact .inl ⟨hrun, congrArg Host.Outcome.next (cmdSetup_of_ne_running specParams hrun)⟩
  · exact .inr (.inl ⟨hrun, congrArg Host.Outcome.next (cmdStep_of_ready specParams hrun)⟩)
  · exact .inr (.inr rfl)
  · exact .inr (.inr rfl)
  · exact .inr (.inr rfl)

/-- What an instruction with a next state is: the engine's, SETUP, STEP, or one that leaves the datapath alone. -/
theorem exec_cases {i : Instr} {s t : State} (h : exec i s = .next t) :
    (i.format = .uop ∨ i.format = .wavesel) ∨ s.run ≠ .running ∧ exec .setup s = .next t ∨
    s.run = .ready ∧ exec .step s = .next t ∨ SameDatapath s t := by
  cases hformat : i.format with
  | uop => exact .inl (.inl rfl)
  | wavesel => exact .inl (.inr rfl)
  | cmdw =>
    obtain ⟨v, rfl⟩ := exists_decodeCmd hformat
    obtain rfl : command specParams v s = t := by injection (exec_decodeCmd v s).symm.trans h
    exact .inr (command_datapath v s)
  | txn =>
    cases i with
    | rd off =>
      have ha := alignedOffset_of_exec (.inr rfl) h
      obtain rfl : { s with hostRdata := hostValue s off } = t := by injection (exec_rd ha s).symm.trans h
      exact .inr (.inr (.inr rfl))
    | wr off v =>
      have ha := alignedOffset_of_exec (.inl ⟨v, rfl⟩) h
      obtain rfl : hostWrite specParams off v s = t := by injection (exec_wr ha v s).symm.trans h
      rcases hostWrite_cases specParams off v s with ⟨n, -, hw⟩ | ⟨-, hw⟩ | hw <;> rw [hw]
      · exact .inr (.inr (.inr (hostWritePrm_sameDatapath n v s)))
      · exact .inr (command_datapath v s)
      · exact .inr (.inr (.inr rfl))
    | _ => exact nomatch hformat

/-- What each instruction of a list keeps, the list keeps. -/
theorem execSeq_keeps {I : State → Prop} : ∀ {is : List Instr}, (∀ i ∈ is, ∀ s t, exec i s = .next t → I s → I t) →
    ∀ {s t : State}, execSeq is s = .next t → I s → I t
  | [], _, s, t, h, hs => by
    injection h with h
    exact h ▸ hs
  | i :: is, hkeeps, s, t, h, hs => by
    rw [execSeq] at h
    cases hexec : exec i s with
    | next u =>
      rw [hexec] at h
      exact execSeq_keeps (fun j hj => hkeeps j (List.mem_cons_of_mem _ hj)) h
        (hkeeps i List.mem_cons_self s u hexec hs)
    | fault r => exact nomatch r
    | refused r =>
      rw [hexec] at h
      exact nomatch h

/-! ## Steps -/

/-- `t` is `s` but for the control part. -/
def ControlOnly (s t : State) : Prop := t = State.control t s

theorem ControlOnly.mem {s t : State} (h : ControlOnly s t) : t.mem = s.mem := (congrArg State.mem h :)

theorem ControlOnly.emitted {s t : State} (h : ControlOnly s t) : t.emitted = s.emitted := (congrArg State.emitted h :)

/-- The sequencer moves the control part alone. -/
theorem advance_controlOnly (s : State) : ControlOnly s (advance s) := by
  unfold advance
  split
  · rfl
  · rfl
  · rfl
  · split_ifs <;> rfl
  · unfold endSample
    split_ifs <;> rfl
  · rfl

/-- `f` is an instruction, a power-on reset or no step, at a state that is `s` but for the control part. -/
def FetchesFrom (s : State) (f : Fetched) : Prop := ∃ s', ControlOnly s s' ∧
  ((∃ i, f = .run i s') ∨ f = .hold (powerOnReset s') ∨ ∃ r, f = .stop r)

theorem fetchBoundary_fetchesFrom (s : State) : FetchesFrom s (fetchBoundary s) := by
  have hstart : FetchesFrom s (startSample (arbitrate s)) := ⟨(arbitrate s).setUpc 0x20#8, rfl, .inl ⟨_, rfl⟩⟩
  unfold fetchBoundary
  cases s.inputs with
  | nil =>
    dsimp only
    split_ifs
    · exact hstart
    · exact ⟨s, rfl, .inl ⟨_, rfl⟩⟩
  | cons inp rest =>
    dsimp only
    split_ifs
    · exact hstart
    · refine ⟨inputTaken rest s, rfl, ?_⟩
      rcases fetchInput_cases inp (inputTaken rest s) with ⟨off, v, h⟩ | ⟨off, h⟩ | h | h
      · exact .inl ⟨_, h⟩
      · exact .inl ⟨_, h⟩
      · exact .inr (.inl h)
      · exact .inr (.inr h)

theorem fetch_fetchesFrom (s : State) : FetchesFrom s (fetch s) := by
  by_cases hupc : s.seq.upc = 0x00#8
  · rw [fetch, if_pos hupc]
    exact fetchBoundary_fetchesFrom s
  · rw [fetch, if_neg hupc]
    cases decodeUop s.seq.upc with
    | ok i => exact ⟨s, rfl, .inl ⟨i, rfl⟩⟩
    | error e => exact ⟨s, rfl, .inr (.inr ⟨_, rfl⟩)⟩

/-- What a step with a next state is: a power-on reset, or one instruction, with the control part moved before it and
after it. -/
theorem step_cases {s t : State} (h : step s = .next t) : ∃ s', ControlOnly s s' ∧
    (t = powerOnReset s' ∨ ∃ i u, exec i s' = .next u ∧ ControlOnly u t) := by
  obtain ⟨s', hs', hfetch⟩ := fetch_fetchesFrom s
  refine ⟨s', hs', ?_⟩
  rw [step_eq_perform] at h
  rcases hfetch with ⟨i, hf⟩ | hf | ⟨r, hf⟩ <;> rw [hf] at h
  · have hdone : complete (exec i s') = .next t := h
    cases hexec : exec i s' with
    | next u =>
      rw [hexec] at hdone
      injection hdone with hdone
      exact .inr ⟨i, u, hexec, hdone ▸ advance_controlOnly u⟩
    | fault r => exact nomatch r
    | refused r =>
      rw [hexec] at hdone
      exact nomatch hdone
  · injection h with h
    exact .inl h.symm
  · exact nomatch h

/-! ## The canonical form of memory -/

theorem fillNoise_wf (P : Params) {s : State} (h : s.mem.wf = true) : (fillNoise P s).mem.wf = true := by
  obtain ⟨-, hwf, -⟩ := fillNoise_spec P h
  exact hwf

theorem ssPhase_wf (P : Params) {s : State} (h : s.mem.wf = true) : (ssPhase P s).mem.wf = true := by
  unfold ssPhase
  dsimp only
  split_ifs
  · exact fillNoise_wf P h
  · exact h
  · exact h

/-- An instruction of the engine keeps the canonical form: it is one of the four that write memory, or keeps it whole. -/
theorem exec_engine_wf {i : Instr} (hi : i.format = .uop ∨ i.format = .wavesel) {s t : State} (hexec : exec i s = .next t)
    (h : s.mem.wf = true) : t.mem.wf = true := by
  obtain ⟨u, hnext, hu⟩ := exec_writes hi s
  obtain rfl : u = t := by injection hnext.symm.trans hexec
  by_cases hwriter : i ∈ [.suClear, .suNoise, .ssPhase, .ssPhaser]
  · simp only [List.mem_cons, List.not_mem_nil, or_false] at hwriter
    rcases hwriter with rfl | rfl | rfl | rfl <;> injection hexec with hexec <;> subst hexec
    · rfl
    · exact fillNoise_wf specParams h
    · exact ssPhase_wf specParams h
    · exact dlWrite_wf h
  · have hmem : u.mem = s.mem := (congrArg State.mem hu).trans (if_neg hwriter)
    rwa [hmem]

theorem execSeq_wf {is : List Instr} (his : ∀ i ∈ is, i.format = .uop) {s t : State} (hexec : execSeq is s = .next t)
    (h : s.mem.wf = true) : t.mem.wf = true :=
  execSeq_keeps (I := fun s => s.mem.wf = true) (fun i hi _ _ => exec_engine_wf (.inl (his i hi))) hexec h

/-- Every instruction keeps the canonical form; SETUP and STEP because they perform the engine's. -/
theorem exec_wf {i : Instr} {s t : State} (hexec : exec i s = .next t) (h : s.mem.wf = true) : t.mem.wf = true := by
  rcases exec_cases hexec with hi | ⟨hrun, hsetup⟩ | ⟨hrun, hstep⟩ | hsame
  · exact exec_engine_wf hi hexec h
  · obtain ⟨u, hseq, hu⟩ := setupPerformsItsSequence s hrun
    have huop : ∀ i ∈ setupInstrs, i.format = .uop := by decide
    obtain rfl := Host.Outcome.next.inj (hu.symm.trans hsetup)
    have hwf : u.mem.wf = true := execSeq_wf huop hseq h
    exact hwf
  · obtain ⟨u, hseq, hu⟩ := stepPerformsItsSequence s hrun
    have huop : ∀ i ∈ sampleInstrs, i.format = .uop := by decide
    obtain rfl := Host.Outcome.next.inj (hu.symm.trans hstep)
    have hwf : u.mem.wf = true := execSeq_wf huop hseq h
    exact hwf
  · rwa [hsame.mem]

/-- Settles O51: an instruction keeps the form, and a step is one instruction between changes of the control part, or a
reset to the empty memory. -/
theorem memoryStaysCanonical : Obligations.MemoryStaysCanonical := by
  refine fun s t h => ⟨fun i hexec => exec_wf hexec h, fun hstep => ?_⟩
  obtain ⟨s', hs', rfl | ⟨i, u, hexec, hut⟩⟩ := step_cases hstep
  · rfl
  · rw [hut.mem]
    exact exec_wf hexec (hs'.mem ▸ h)

/-! ## The output port -/

/-- The port is as it was, or has one event more. -/
def Appends (s t : State) : Prop := t.emitted = s.emitted ∨ ∃ e, t.emitted = e :: s.emitted

/-- PO_OUT appends its event, and no other instruction of the engine writes the port. -/
theorem exec_engine_appends {i : Instr} (hi : i.format = .uop ∨ i.format = .wavesel) {s t : State}
    (hexec : exec i s = .next t) : Appends s t := by
  by_cases hout : i = .poOut
  · subst hout
    obtain rfl : poOut specParams s = t := Host.Outcome.next.inj hexec
    rw [poOut_eq]
    exact .inr ⟨_, rfl⟩
  · obtain ⟨u, hnext, hu⟩ := exec_writes hi s
    obtain rfl : u = t := by injection hnext.symm.trans hexec
    exact .inl ((congrArg State.emitted hu).trans (if_neg hout))

theorem exec_appends {i : Instr} {s t : State} (hexec : exec i s = .next t) : Appends s t := by
  rcases exec_cases hexec with hi | ⟨hrun, hsetup⟩ | ⟨hrun, hstep⟩ | hsame
  · exact exec_engine_appends hi hexec
  · obtain ⟨u, hu, hframe, -⟩ := setupStartsARun s hrun
    obtain rfl := Host.Outcome.next.inj (hu.symm.trans hsetup)
    exact .inl (congrArg State.emitted hframe :)
  · obtain ⟨u, v, hu, hframe, -⟩ := stepEmitsOneSample s hrun
    obtain rfl := Host.Outcome.next.inj (hu.symm.trans hstep)
    exact .inr ⟨_, (congrArg State.emitted hframe :)⟩
  · exact .inl hsame.emitted

/-- Settles O54: an instruction appends at most one event, changes of the control part none, and a reset keeps the port. -/
theorem outputPortIsAppendOnly : Obligations.OutputPortIsAppendOnly := by
  intro s t hstep
  obtain ⟨s', hs', rfl | ⟨i, u, hexec, hut⟩⟩ := step_cases hstep
  · exact .inl hs'.emitted
  · have happends := exec_appends hexec
    rwa [Appends, hs'.emitted, ← hut.emitted] at happends

end Sys2Proof.Machine
end

section
/-! PROOFS. The phaser's delay line (47_phaser_delay.md R290): SS_PHASER writes the slot of `S.ipp` and then reads the tap,
so the slots are the last 1024 samples, each at the distance its tap names. -/

namespace Sys2Proof.Machine

/-! ## Slots -/

/-- An index selects its slot modulo 1024 (20_memory.md R98). -/
theorem dlSlot_eq_mod (i : I32) : dlSlot i = i.toNat % 1024 := by
  rw [dlSlot, BitVec.toNat_and]
  exact Nat.and_two_pow_sub_one_eq_mod _ 10

theorem dlSlot_and_1023 (i : I32) : dlSlot (i &&& 1023#32) = dlSlot i := by
  rw [dlSlot, dlSlot, BitVec.and_assoc, BitVec.and_self]

/-- Only the slot of an index counts to a read. -/
theorem dlRead_congr (m : Memory) {i k : I32} (h : dlSlot i = dlSlot k) : dlRead m i = dlRead m k := by
  rw [dlRead, h, dlRead]

/-- A multiple of 1024, as the taps 0 and 0x80000000 are, taps the slot of `S.ipp` itself. -/
theorem dlSlot_tapIndex_of_dvd (ipp : I32) {tap : I32} (h : 1024 ∣ tap.toNat) :
    dlSlot (tapIndex ipp tap) = dlSlot ipp := by
  rw [tapIndex, dlSlot_and_1023, dlSlot_eq_mod, dlSlot_eq_mod, BitVec.toNat_add, BitVec.toNat_sub]
  have h1024 : (1024#32).toNat = 1024 := rfl
  have hlt := tap.isLt
  omega

/-- A store to DL writes the bytes of its slot alone. -/
theorem readByte_dlWrite {m : Memory} (h : m.wf = true) (i : I32) (v : F32) {a : Nat}
    (ha : a < dlAddr (dlSlot i) ∨ dlAddr (dlSlot i) + 4 ≤ a) : (dlWrite m i v).readByte a = m.readByte a := by
  rw [dlWrite, Memory.readByte_writeWord h]
  iterate 4 rw [if_neg (by omega)]

/-! ## SS_PHASER -/

section
variable (P : Params) (s : State)

theorem ssPhaser_mem : (ssPhaser P s).mem = dlWrite s.mem (s.syn.ipp &&& 1023#32) s.seq.sample := rfl

theorem ssPhaser_ipp : (ssPhaser P s).syn.ipp = (s.syn.ipp + 1#32) &&& 1023#32 := rfl

/-- The sample becomes its sum with the tapped slot of the new delay line. -/
theorem ssPhaser_sample : (ssPhaser P s).seq.sample =
    add32 P s.seq.sample (dlRead (ssPhaser P s).mem (tapIndex s.syn.ipp s.syn.iphase)) := rfl

variable {s}

/-- The delay line after SS_PHASER: the sample in the slot of `S.ipp`, and every other slot as before. -/
theorem dlRead_ssPhaser (h : s.mem.wf = true) (k : I32) : dlRead (ssPhaser P s).mem k =
    if dlSlot k = dlSlot s.syn.ipp then s.seq.sample else dlRead s.mem k := by
  rw [ssPhaser_mem, dlRead_dlWrite h, dlSlot_and_1023]

/-- A tap of the slot that has just been written doubles the sample. -/
theorem ssPhaser_sample_of_dvd (h : s.mem.wf = true) (htap : 1024 ∣ s.syn.iphase.toNat) :
    (ssPhaser P s).seq.sample = add32 P s.seq.sample s.seq.sample := by
  rw [ssPhaser_sample, dlRead_ssPhaser P h, if_pos (dlSlot_tapIndex_of_dvd _ htap)]

end

/-- Settles O41: the frame of SS_PHASER, its store, and its read of the delay line it has stored to. -/
theorem phaserWritesBeforeTheTap : Obligations.PhaserWritesBeforeTheTap := by
  refine ⟨rfl, fun s hwf => ⟨ssPhaser specParams s, rfl, rfl, ?written, fun a ha => ?elsewhere, rfl, fun htap => ?own⟩⟩
  case written => rw [dlRead_ssPhaser specParams hwf, if_pos rfl]
  case elsewhere =>
    rw [← dlSlot_and_1023] at ha
    exact readByte_dlWrite hwf _ _ ha
  case own =>
    refine ssPhaser_sample_of_dvd specParams hwf ?_
    rcases htap with h | h <;> rw [h] <;> decide

/-! ## The history -/

/-- The slot that a tap selects: what was written `tap` sub-samples before the last one. -/
def delayed (s : State) (tap : Nat) : F32 := dlRead s.mem (s.syn.ipp - 1#32 - BitVec.ofNat 32 tap)

/-- The slot of a tap, counted back from the slot of `S.ipp`. -/
theorem dlSlot_back (ipp : I32) {tap : Nat} (htap : tap < 1024) :
    dlSlot (ipp - 1#32 - BitVec.ofNat 32 tap) = (dlSlot ipp + (1023 - tap)) % 1024 := by
  rw [dlSlot_eq_mod, dlSlot_eq_mod, BitVec.toNat_sub, BitVec.toNat_sub, BitVec.toNat_ofNat]
  have h1 : (1#32).toNat = 1 := rfl
  omega

/-- The next slot is the next one of 1024. -/
theorem dlSlot_next (ipp : I32) : dlSlot ((ipp + 1#32) &&& 1023#32) = (dlSlot ipp + 1) % 1024 := by
  rw [dlSlot_and_1023, dlSlot_eq_mod, dlSlot_eq_mod, BitVec.toNat_add]
  have h1 : (1#32).toNat = 1 := rfl
  omega

section
variable (P : Params) {s : State}

/-- The last sample is at tap 0. -/
theorem delayed_ssPhaser_zero (h : s.mem.wf = true) : delayed (ssPhaser P s) 0 = s.seq.sample := by
  have hslot : dlSlot ((ssPhaser P s).syn.ipp - 1#32 - BitVec.ofNat 32 0) = dlSlot s.syn.ipp := by
    rw [dlSlot_back _ (by decide), ssPhaser_ipp, dlSlot_next]
    have hlt := dlSlot_lt s.syn.ipp
    omega
  rw [delayed, dlRead_ssPhaser P h, if_pos hslot]

/-- Every sample before it moves one tap further. -/
theorem delayed_ssPhaser_succ (h : s.mem.wf = true) {tap : Nat} (htap : tap + 1 < 1024) :
    delayed (ssPhaser P s) (tap + 1) = delayed s tap := by
  have hlt := dlSlot_lt s.syn.ipp
  have hslot : dlSlot ((ssPhaser P s).syn.ipp - 1#32 - BitVec.ofNat 32 (tap + 1)) =
      (dlSlot s.syn.ipp + (1023 - tap)) % 1024 := by
    rw [dlSlot_back _ htap, ssPhaser_ipp, dlSlot_next]
    omega
  rw [delayed, dlRead_ssPhaser P h, if_neg (by rw [hslot]; omega), delayed]
  exact dlRead_congr _ (hslot.trans (dlSlot_back _ (by omega)).symm)

end

theorem wf_feedDelay (P : Params) : ∀ (samples : List F32) {s : State}, s.mem.wf = true →
    (feedDelay P samples s).mem.wf = true
  | [], _, h => h
  | _ :: rest, _, h => wf_feedDelay P rest (dlWrite_wf h)

/-- What a tap selects after a list of samples: the list read back from its end, and what was there before beyond it. -/
theorem delayed_feedDelay (P : Params) {tap : Nat} (htap : tap < 1024) : ∀ (samples : List F32) {s : State},
    s.mem.wf = true → delayed (feedDelay P samples s) tap = samples.reverse.getD tap (delayed s (tap - samples.length))
  | [], _, _ => rfl
  | v :: rest, s, h => by
    have hwf : (s.setSample v).mem.wf = true := h
    rw [feedDelay, delayed_feedDelay P htap rest (dlWrite_wf hwf), List.reverse_cons, List.length_cons]
    rcases lt_trichotomy tap rest.length with hlt | rfl | hgt
    · have hrest : tap < rest.reverse.length := by rwa [List.length_reverse]
      rw [List.getD_append _ _ _ _ hrest, List.getD_eq_getElem _ _ hrest, List.getD_eq_getElem _ _ hrest]
    · rw [List.getD_eq_default _ _ List.length_reverse.le, List.getD_append_right _ _ _ _ List.length_reverse.le,
        List.length_reverse, Nat.sub_self, delayed_ssPhaser_zero P hwf]
      rfl
    · obtain ⟨k, rfl⟩ : ∃ k, tap = rest.length + (k + 1) := ⟨tap - rest.length - 1, by omega⟩
      have hlong : rest.reverse.length ≤ rest.length + (k + 1) := by rw [List.length_reverse]; omega
      rw [List.getD_eq_default _ _ hlong, List.getD_append_right _ _ _ _ hlong, List.length_reverse,
        Nat.add_sub_cancel_left, delayed_ssPhaser_succ P hwf (by omega), ← Nat.add_assoc, Nat.add_right_comm,
        Nat.add_sub_cancel_left]
      rfl

/-- Settles O42: the list read back from its end, and the +0.0 of before beyond it. -/
theorem delayLineHoldsTheHistory : Obligations.DelayLineHoldsTheHistory := by
  intro P s samples tap hwf htap
  have hread := delayed_feedDelay P htap samples hwf
  refine ⟨fun hlt => ?within, fun hle hzero => ?beyond⟩
  case within =>
    have hrev : tap < samples.reverse.length := by rwa [List.length_reverse]
    rw [← List.getElem?_reverse hlt, List.getElem?_eq_getElem hrev, ← List.getD_eq_getElem _ _ hrev]
    exact congrArg some hread.symm
  case beyond =>
    calc delayed (feedDelay P samples s) tap
        = delayed s (tap - samples.length) := hread.trans (List.getD_eq_default _ _ (by rwa [List.length_reverse]))
      _ = 0x00000000#32 := hzero _

end Sys2Proof.Machine
end

section
/-! PROOFS. Accumulation and sample output (48_output.md R300, R301, R303): PO_OUT before CAPACITY and at it. -/

namespace Sys2Proof.Machine

section
variable (P : Params) {s : State}

/-- Before CAPACITY the sample is emitted and counted. -/
theorem poOut_of_below (h : s.sampleCount + 1#32 ≠ capacity) : poOut P s = { s with
    seq := { s.seq with ssample := outputValue P s.seq.ssample }, sampleOut := outputValue P s.seq.ssample,
    sampleCount := s.sampleCount + 1#32,
    emitted := { index := s.sampleCount, value := outputValue P s.seq.ssample } :: s.emitted } := if_neg h

/-- The sample that reaches CAPACITY ends the run besides. -/
theorem poOut_of_capacity (h : s.sampleCount + 1#32 = capacity) : poOut P s = { s with
    seq := { s.seq with ssample := outputValue P s.seq.ssample }, sampleOut := outputValue P s.seq.ssample,
    sampleCount := s.sampleCount + 1#32,
    emitted := { index := s.sampleCount, value := outputValue P s.seq.ssample } :: s.emitted,
    syn := { s.syn with gen := false }, termCap := true } := if_pos h

end

theorem count_reaches_capacity_iff (n : I32) : n + 1#32 = capacity ↔ n = 440999#32 := by
  have hlast : 440999#32 = capacity - 1#32 := by decide
  rw [hlast, eq_sub_iff_add_eq]

/-- Settles O43: the two accumulator updates. -/
theorem accumulatorClearsAndSums : Obligations.AccumulatorClearsAndSums :=
  ⟨rfl, rfl, fun s => ⟨congrArg Host.Outcome.next (psSsclr_eq s), congrArg Host.Outcome.next (ssAcc_eq specParams s)⟩⟩

/-- Settles O44: the value is the clamped one, and whether its sample is the last one decides what else PO_OUT does. -/
theorem outputEmitsAndCounts : Obligations.OutputEmitsAndCounts := by
  refine ⟨rfl, fun s => ⟨clampOut_unitOrNan _, fun hcount => ?below, fun hcount => ?last⟩⟩
  case below =>
    exact congrArg Host.Outcome.next (poOut_of_below specParams (mt (count_reaches_capacity_iff _).mp hcount))
  case last =>
    have hlast := poOut_of_capacity specParams ((count_reaches_capacity_iff _).mpr hcount)
    rw [hcount] at hlast ⊢
    exact congrArg Host.Outcome.next hlast

end Sys2Proof.Machine
end

section
/-! PROOFS. What SETUP takes from an earlier run (70_reset_and_hazards.md R352): the record and the random source. -/

namespace Sys2Proof.Machine

/-- The noise fill depends on memory and on the random source. -/
theorem drawRange_mem_congr (P : Params) : ∀ (n j : Nat) {s s' : State}, s.mem = s'.mem → s.rng = s'.rng →
    (drawRange P n j s).mem = (drawRange P n j s').mem
  | 0, _, _, _, hmem, _ => hmem
  | n + 1, j, _, _, hmem, hrng => by
    refine drawRange_mem_congr P n (j + 1) ?_ ?_
    · simp only [drawInto, State.setRng_mem, State.setMem_mem, hmem, hrng]
    · simp only [drawInto, State.setRng_rng, hrng]

theorem suReseed_rng (s : State) :
    (suReseed s).rng = if s.prm.randSeed ≠ 0#32 then s.rng.reseed s.prm.randSeed else s.rng.ambient := by
  unfold suReseed
  split_ifs <;> rfl

/-- What SETUP leaves: what `setupDerived` has before the noise, the noise filled in, and READY. -/
theorem setup_eq (P : Params) (s : State) : endSetup (plain (setupSeq P) s) = { s with
    prm := s.prm.clamp, run := .ready, termEnv := false, termFloor := false, termCap := false, sampleCount := 0#32,
    sampleOut := 0#32, syn := (Synth.zero true).derive P s.prm.clamp, mem := (fillNoise P (setupDerived P s)).mem,
    seq := { s.seq with upc := 0x00#8 }, rng := (suReseed s).rng.advance 32 } := by
  obtain ⟨hfill, -⟩ := fillNoise_spec P (s := setupDerived P s) rfl
  rw [plain_setupSeq_derived]
  generalize fillNoise P (setupDerived P s) = u at hfill
  rw [hfill]
  rfl

/-- Settles O9: the derived run is that of the record, the noise that of the source, and the rest is cleared or kept. -/
theorem setupIgnoresTheEarlierRun : Obligations.SetupIgnoresTheEarlierRun := by
  intro s s' hrun hrun' hprm hrng
  have hsource : (suReseed s).rng = (suReseed s').rng := by rw [suReseed_rng, suReseed_rng, hprm, hrng]
  have hnoise : (fillNoise specParams (setupDerived specParams s)).mem =
      (fillNoise specParams (setupDerived specParams s')).mem := drawRange_mem_congr specParams noiseLen 0 rfl hsource
  have hexec := exec_setup hrun
  have hexec' := exec_setup hrun'
  rw [setup_eq] at hexec hexec'
  rw [← hnoise, ← hsource, ← hprm] at hexec'
  generalize (fillNoise specParams (setupDerived specParams s)).mem = m at hexec hexec'
  generalize (Synth.zero true).derive specParams s.prm.clamp = y at hexec hexec'
  exact ⟨_, _, hexec, hexec', rfl, rfl, rfl, rfl, rfl, rfl, rfl, rfl, rfl, rfl, rfl, rfl, rfl, rfl⟩

end Sys2Proof.Machine
end

section
/-! PROOFS. What a step executes (log 1, 2, 3, 28), and power-on reset (70_reset_and_hazards.md R350, R351): the invariant
there, the reset value of every offset of the window, and a reset that the host asserts between transitions. -/

namespace Sys2Proof.Machine

/-! ## One step -/

/-- In the midst of a sequence a step executes the micro-operation in `upc`. -/
theorem step_of_upc {s : State} {i : Instr} (hupc : s.seq.upc ≠ 0x00#8) (hdec : decodeUop s.seq.upc = .ok i) :
    step s = complete (exec i s) := by
  have hfetch : fetch s = .run i s := by rw [fetch, if_neg hupc, hdec]
  rw [step_eq_perform, hfetch, perform]

/-- Between transitions, where the host moves, a step performs its next input. -/
theorem step_of_input {s : State} {inp : HostInput} {rest : List HostInput} (hupc : s.seq.upc = 0x00#8)
    (hinputs : s.inputs = inp :: rest) (hturn : s.run ≠ .running ∨ s.hostTurn = true) :
    step s = perform (fetchInput inp (inputTaken rest s)) := by
  have hhost : ¬(s.run = .running ∧ s.hostTurn = false) := fun ⟨hrun, hengine⟩ =>
    hturn.elim (· hrun) fun hhost => Bool.false_ne_true (hengine.symm.trans hhost)
  rw [step_eq_perform, fetch, if_pos hupc, fetchBoundary, hinputs]
  exact congrArg perform (if_neg hhost)

/-- Between transitions, with no run in progress and no input pending, a step changes nothing. -/
theorem step_of_rest {s : State} (hupc : s.seq.upc = 0x00#8) (hrun : s.run ≠ .running) (hinputs : s.inputs = []) :
    step s = .next s := by
  have hfetch : fetch s = .run .idle s := by
    rw [fetch, if_pos hupc, fetchBoundary, hinputs]
    exact if_neg hrun
  rw [step_eq_perform, hfetch]
  exact congrArg Host.Outcome.next (advance_of_rest hupc)

/-- A raw access of 4 bytes is the WR or RD of its offset (20_memory.md R88). -/
theorem fetchInput_access (write : Bool) (off : BitVec 16) (v : BitVec 32) (s : State) :
    fetchInput (.access 4 write off v) s = .run (if write then .wr off v else .rd off) s := by
  cases write <;> rfl

/-- Settles O47: each clause is one of the ways a step is taken. -/
theorem stepRunsTheInstruction : Obligations.StepRunsTheInstruction := by
  refine fun s i => ⟨step_of_upc, fun hupc w rest hinputs hdec hturn => ?transaction,
    fun hupc write off v rest hinputs hturn => ?access, fun hupc hrun hturn => ?engine, step_of_rest⟩
  case transaction =>
    have hfetch : fetchInput (.txn w) (inputTaken rest s) = .run i (inputTaken rest s) := by rw [fetchInput, hdec]
    rw [step_of_input hupc hinputs hturn, hfetch]
    rfl
  case access =>
    rw [step_of_input hupc hinputs hturn, fetchInput_access]
    rfl
  case engine =>
    rw [step_boundary hupc hrun hturn]
    exact step_of_upc (s := (arbitrate s).setUpc 0x20#8) (by decide : (0x20#8 : BitVec 8) ≠ 0x00#8) rfl

/-! ## Reset -/

/-- Settles O56: the host's next input is a reset, which is taken and executes nothing. -/
theorem powerOnResetBetweenTransitions : Obligations.PowerOnResetBetweenTransitions := by
  intro s rest hupc hinputs hturn
  rw [step_of_input hupc hinputs hturn]
  rfl

/-- Settles O49: the state after reset is a cleared run's after a power-on reset. -/
theorem invariantAtReset : Obligations.InvariantAtReset :=
  have hcleared : Inv (suClear State.reset) :=
    (suClear_engineInv (s := State.reset) nofun).inv_between rfl nofun nofun
  powerOnReset_inv hcleared

/-- The word an offset of the window reads after reset (R350): the four constants, and 0 elsewhere. -/
def resetWord (off : BitVec 16) : BitVec 32 :=
  if off = 0x070#16 then 44100#32 else if off = 0x074#16 then 0x00000120#32
  else if off = 0x078#16 then 441000#32 else if off = 0x07C#16 then 1#32 else 0#32

theorem resetWord_of_outside {off : BitVec 16} (h : off.toNat < 0x060 ∨ 0x080 ≤ off.toNat) : resetWord off = 0#32 := by
  have hne {k : BitVec 16} (hlow : 0x060 ≤ k.toNat) (hhigh : k.toNat < 0x080) : off ≠ k := by
    rintro rfl
    omega
  rw [resetWord, if_neg (hne _ _), if_neg (hne _ _), if_neg (hne _ _), if_neg (hne _ _)] <;> decide

/-- The registers that a reset leaves at another value than 0. -/
def constantRegs : List WindowReg := [.rate, .format, .capacity, .ifRev]

/-- Every register of the window but the constants is 0 after reset (R53). -/
theorem value_reset {r : WindowReg} (h : r ∉ constantRegs) : r.value State.reset = 0#32 := by
  have hprm : State.reset.prm.words = List.replicate 24 0#32 := rfl
  have hsyn : State.reset.syn.words = List.replicate 40 0#32 := by decide
  have hzero (k n : Nat) : (List.replicate k 0#32).getD n 0#32 = 0#32 := by
    rw [List.getD_eq_getElem?_getD, List.getElem?_replicate]
    split_ifs <;> rfl
  cases r with
  | prm n => exact (congrArg (·.getD n 0#32) hprm).trans (hzero 24 n)
  | debug n => exact (congrArg (·.getD n 0#32) hsyn).trans (hzero 40 n)
  | dl i | nt i => exact readWord_nil _
  | ctrl | sampleCount | sampleOut | reserved => rfl
  | status => decide
  | rate | format | capacity | ifRev => exact absurd (by decide) h

/-- The constants lie from CTRL to IFREV (20_memory.md R81). -/
theorem windowReg_outside {off : BitVec 16} (h : off.toNat < 0x060 ∨ 0x080 ≤ off.toNat) :
    windowReg off ∉ constantRegs := by
  by_cases hprm : off.toNat < 0x060
  · rw [windowReg_prm hprm]
    exact nofun
  by_cases hdebug : 0x100 ≤ off.toNat ∧ off.toNat < 0x1A0
  · rw [windowReg_debug hdebug.1 hdebug.2]
    exact nofun
  by_cases hdl : 0x1000 ≤ off.toNat ∧ off.toNat < 0x2000
  · rw [windowReg_dl hdl.1 hdl.2]
    exact nofun
  by_cases hnt : 0x2000 ≤ off.toNat ∧ off.toNat < 0x2080
  · rw [windowReg_nt hnt.1 hnt.2]
    exact nofun
  · rw [windowReg_reserved (by omega)]
    exact nofun

/-- The registers of the window from CTRL to IFREV. -/
theorem hostValue_reset_low {off : BitVec 16} (ha : alignedOffset off = true) (hlow : 0x060 ≤ off.toNat)
    (hhigh : off.toNat < 0x080) : hostValue State.reset off = resetWord off := by
  obtain ⟨n, hn, rfl⟩ : ∃ n, n < 8 ∧ off = BitVec.ofNat 16 (0x060 + 4 * n) := by
    have hmod := alignedOffset_mod ha
    refine ⟨(off.toNat - 0x060) / 4, by omega, BitVec.eq_of_toNat_eq ?_⟩
    rw [BitVec.toNat_ofNat]
    omega
  interval_cases n <;> decide

/-- The reset value of every aligned offset. -/
theorem hostValue_reset {off : BitVec 16} (ha : alignedOffset off = true) : hostValue State.reset off = resetWord off := by
  by_cases hinside : 0x060 ≤ off.toNat ∧ off.toNat < 0x080
  · exact hostValue_reset_low ha hinside.1 hinside.2
  · have houtside : off.toNat < 0x060 ∨ 0x080 ≤ off.toNat := by omega
    rw [hostValue, value_reset (windowReg_outside houtside), resetWord_of_outside houtside]

/-- Settles O55: a read after reset hands the host the reset value of its offset. -/
theorem resetValues : Obligations.ResetValues := by
  refine ⟨rfl, rfl, rfl, fun off ha => ?_⟩
  rw [exec_rd ha, hostValue_reset ha]
  rfl

end Sys2Proof.Machine
end
